-- ==== Sys2Proof/Word.lean ====
section
/-! DEFINITION. The two word types of the block (00_scope.md R5: data 8 bits, addresses 16 bits). -/

namespace Sys2Proof

/-- A memory cell, a general register, a port address or a port datum (R5). -/
abbrev Byte := BitVec 8

/-- A memory address, the program counter or the stack pointer (R5). -/
abbrev Addr := BitVec 16

end Sys2Proof
end

