-- ==== Sys2Proof/Config.lean ====
section
/-! DEFINITION. What is fixed for the life of an instance: the three open parameters of the banked memory controller
(00_scope.md R6), the bank-select port (R5), and the environment's free bytes (45_io.md R143). -/

namespace Sys2Proof

/-- The three parameters the spec leaves open (R6, decision D12). They are arguments of the model: an instance carries
them as data, so that every statement about all states covers every configuration (log entry 1). -/
structure Config where
  /-- `BANK_COUNT`, the number of banks. -/
  bankCount : Nat
  /-- `BANK_BASE`, the first address of the banked window. -/
  bankBase : Nat
  /-- `BANK_SIZE`, the number of addresses in the banked window. -/
  bankSize : Nat
deriving DecidableEq, Repr

/-- The constraints R6 puts on the parameters: `1 <= BANK_COUNT <= 256`, a non-empty window that does not wrap. -/
abbrev Config.wf (c : Config) : Prop :=
  (1 ≤ c.bankCount ∧ c.bankCount ≤ 256) ∧ 1 ≤ c.bankSize ∧ c.bankBase + c.bankSize ≤ 65536

/-- `CFG_EX`, the example configuration of R6: four banks, window 0x8000 to 0xBFFF. DESIGN CHOICE (unsafe where a claim
leans on it): State.reset uses it, since the spec gives no other numbers (log entry 1). -/
def Config.cfgEx : Config := { bankCount := 4, bankBase := 0x8000, bankSize := 0x4000 }

/-- `BANK_PORT` (R5, R144): "a fixed, documented constant of the system, not user-configurable". -/
def Config.bankPort : Byte := 0xFF

/-- The byte the environment supplies as `IoRead(port)` at its `draw`-th reading (R143): under no law, so it has no body
and nothing can be proved of its value. DESIGN CHOICE (safe): the form of the free value, log entry 2. -/
opaque Config.ioRead (draw : Nat) (port : Byte) : Byte

end Sys2Proof
end

