-- ==== Sys2Proof/Syntax.lean ====
section
/-! DEFINITION. The instructions, one constructor per mnemonic of spec/opcode_table.json (30_encoding.md R88). The 151
rows UNRECOGNIZED are one constructor that carries its byte. -/

namespace Sys2Proof

/-- The seven registers an instruction can name (10_state.md R21). Code 6 names none (30_encoding.md R83). -/
inductive Reg where
  | b | c | d | e | h | l | a
deriving DecidableEq, Repr

/-- The instructions of the dispatch table. `movDS` copies S to D (destination first, R91). -/
inductive Instr where
  /-- R102 -/
  | nop
  /-- R103 -/
  | hlt
  /-- R105: an opcode byte outside the 105 recognized ones -/
  | unrecognized (op : Byte)
  /-- R110: MOV r1,r2, one constructor per pair of registers -/
  | movBB | movBC | movBD | movBE | movBH | movBL | movBA
  | movCB | movCC | movCD | movCE | movCH | movCL | movCA
  | movDB | movDC | movDD | movDE | movDH | movDL | movDA
  | movEB | movEC | movED | movEE | movEH | movEL | movEA
  | movHB | movHC | movHD | movHE | movHH | movHL | movHA
  | movLB | movLC | movLD | movLE | movLH | movLL | movLA
  | movAB | movAC | movAD | movAE | movAH | movAL | movAA
  /-- R111: MVI r,d8 -/
  | mviB (d8 : Byte) | mviC (d8 : Byte) | mviD (d8 : Byte) | mviE (d8 : Byte) | mviH (d8 : Byte) | mviL (d8 : Byte) | mviA (d8 : Byte)
  /-- R112 -/
  | lda (a16 : Addr)
  /-- R113 -/
  | sta (a16 : Addr)
  /-- R123 -/
  | addB | addC | addD | addE | addH | addL | addA
  /-- R124 -/
  | adcB | adcC | adcD | adcE | adcH | adcL | adcA
  /-- R125 -/
  | subB | subC | subD | subE | subH | subL | subA
  /-- R126 -/
  | sbbB | sbbC | sbbD | sbbE | sbbH | sbbL | sbbA
  /-- R130 -/
  | inrB | inrC | inrD | inrE | inrH | inrL | inrA
  /-- R131 -/
  | dcrB | dcrC | dcrD | dcrE | dcrH | dcrL | dcrA
  /-- R135 -/
  | jmp (a16 : Addr)
  /-- R140, R142: OUT p8 -/
  | outPort (p8 : Byte)
  /-- R141, R143: IN p8 -/
  | inPort (p8 : Byte)
deriving DecidableEq, Repr

end Sys2Proof
end

