-- ==== Sys2Proof/Machine/State.lean ====
section
/-! DEFINITION. The whole state of one instance (10_state.md R20), as plain data, and its reset value (R39). -/

namespace Sys2Proof.Machine

/-- The seven 8-bit registers (R21). None is hard-wired, none aliases another. -/
structure Regs where
  b : Byte
  c : Byte
  d : Byte
  e : Byte
  h : Byte
  l : Byte
  a : Byte
deriving DecidableEq, Repr

/-- The five condition flags, "five independent booleans" (R28, R31): Sign, Zero, Auxiliary-Carry, Parity, Carry. -/
structure Flags where
  s : Bool
  z : Bool
  ac : Bool
  p : Bool
  cy : Bool
deriving DecidableEq, Repr

/-- What a cell that no list names reads as: `0x00`, the value reset clears every cell to (R39). -/
def unlistedByte : Byte := 0x00

/-- The two kinds of storage (R36), each a sparse list in canonical form (`Memory.wf`). -/
structure Memory where
  /-- `common[a]`, keyed by the address `a` -/
  common : List Host.Cell
  /-- `bankmem[k][o]`, keyed by `bankKey k o` (log entry 5) -/
  bankmem : List Host.Cell
deriving DecidableEq, Repr

/-- A storage cell, what the controller's `Route` names (20_memory.md R52). -/
inductive StoreCell where
  /-- `common[a]` -/
  | common (a : Addr)
  /-- `bankmem[k][o]` -/
  | bank (k : Nat) (o : Addr)
deriving DecidableEq, Repr

/-- The state of one instance: R20's list, the configuration it was built with (R6), and two fields of the model's own
for the I/O interface (R142, R143). -/
structure State where
  /-- `A`, `B`, `C`, `D`, `E`, `H`, `L` (R21) -/
  regs : Regs
  /-- `S`, `Z`, `AC`, `P`, `CY` (R28) -/
  flags : Flags
  /-- the program counter (R25) -/
  pc : Addr
  /-- the stack pointer (R27) -/
  sp : Addr
  /-- false is Running, true is Halted (R32) -/
  halted : Bool
  /-- the inert interrupt state (R35, 60_exceptions.md R184) -/
  inte : Bool
  /-- bank switching enabled (R33) -/
  bankEn : Bool
  /-- the current bank index (R34) -/
  bank : Nat
  /-- `common` and `bankmem` (R36) -/
  mem : Memory
  /-- BANK_COUNT, BANK_BASE, BANK_SIZE of this instance, written by no operation (R6, R38) -/
  cfg : Config
  /-- the model's own: how many bytes the environment has supplied (R143, log entry 2) -/
  ioDraws : Nat
  /-- the model's own: the pairs (port, byte) presented on the I/O interface, newest first (R142, log entry 3) -/
  ioWrites : List (Byte × Byte)
deriving DecidableEq, Repr

/-- The reasons a step stops with a fault. There is none: no instruction raises an exception (60_exceptions.md R180), and
every opcode byte, operand, address and register value is accepted. -/
inductive Fault where
deriving DecidableEq, Repr

/-- The reasons a step is refused. -/
inductive Refusal where
  /-- an arm of `exec` whose instruction has no meaning in the model; no arm raises it now. Safe: the model stops. -/
  | notModelled (mnemonic : String)
deriving DecidableEq, Repr

/-- The three outcomes of a step, for this machine. -/
abbrev Result := Host.Outcome State Fault Refusal

/-- The reset state of an instance built with the configuration `c` (R39, R200): building an instance performs a reset. -/
def State.resetWith (c : Config) : State where
  regs := { b := 0, c := 0, d := 0, e := 0, h := 0, l := 0, a := 0 }
  flags := { s := false, z := false, ac := false, p := false, cy := false }
  pc := 0x0000
  sp := 0xFFFF
  halted := false
  inte := false
  bankEn := false
  bank := 0
  mem := { common := [], bankmem := [] }
  cfg := c
  ioDraws := 0
  ioWrites := []

/-- The machine right after reset. DESIGN CHOICE (unsafe where a claim leans on it): the instance is built with CFG_EX,
since the spec leaves the three parameters open (log entry 1). -/
def State.reset : State := State.resetWith Config.cfgEx

end Sys2Proof.Machine
end

