-- ==== Sys2Proof/Machine/Flags.lean ====
section
/-! DEFINITION. The flag computation unit (42_arithmetic.md R120 to R122; 43_inr_dcr.md R130, R131). Each operation
computes on unbounded integers from the operands and narrows at the end, as the spec's pseudocode does. -/

namespace Sys2Proof.Machine

/-- The number of 1 bits of a byte (00_scope.md R8). -/
def popcount (v : Byte) : Nat :=
  (v.getLsbD 0).toNat + (v.getLsbD 1).toNat + (v.getLsbD 2).toNat + (v.getLsbD 3).toNat
    + (v.getLsbD 4).toNat + (v.getLsbD 5).toNat + (v.getLsbD 6).toNat + (v.getLsbD 7).toNat

/-- `v[3:0]`. -/
def lowNibble (v : Byte) : Nat := v.toNat % 16

/-- `SetZSP(r)`: writes `Z`, `S`, `P` from the 8-bit result, never `CY` or `AC` (R120). -/
def setZSP (f : Flags) (r : Byte) : Flags :=
  { f with z := decide (r = 0), s := r.getLsbD 7, p := decide (popcount r % 2 = 0) }

/-- `AddCore(a, b, cin)`: the result and all five flags (R121). -/
def addCore (a b : Byte) (cin : Bool) : Byte × Flags :=
  let sum9 : Nat := a.toNat + b.toNat + cin.toNat
  let r : Byte := BitVec.ofNat 8 (sum9 % 256)
  let f : Flags :=
    { s := false, z := false, p := false
      cy := decide (sum9 > 255)
      ac := decide (lowNibble a + lowNibble b + cin.toNat > 15) }
  (r, setZSP f r)

/-- `SubCore(a, b, bin)`: the result and all five flags; `CY` is the borrow and `AC` the borrow out of the low nibble
(R122, the spec's decision D5). -/
def subCore (a b : Byte) (bin : Bool) : Byte × Flags :=
  let diff : Int := (a.toNat : Int) - (b.toNat : Int) - (bin.toNat : Int)
  let r : Byte := BitVec.ofNat 8 (diff % 256).toNat
  let f : Flags :=
    { s := false, z := false, p := false
      cy := decide (diff < 0)
      ac := decide ((lowNibble a : Int) - (lowNibble b : Int) - (bin.toNat : Int) < 0) }
  (r, setZSP f r)

/-- INR: `AC` is the nibble carry of plus one, `CY` is kept (R130, conflict C1). -/
def incCore (old : Byte) (f : Flags) : Byte × Flags :=
  let r : Byte := BitVec.ofNat 8 ((old.toNat + 1) % 256)
  (r, setZSP { f with ac := decide (lowNibble old + 1 > 15) } r)

/-- DCR: `AC` is the nibble borrow of minus one, `CY` is kept (R131, conflict C1). -/
def decCore (old : Byte) (f : Flags) : Byte × Flags :=
  let r : Byte := BitVec.ofNat 8 (((old.toNat : Int) - 1) % 256).toNat
  (r, setZSP { f with ac := decide ((lowNibble old : Int) - 1 < 0) } r)

end Sys2Proof.Machine
end

