-- ==== Sys2Proof/WellFormed.lean ====
section
/-! DEFINITION. When an instruction term stands for bytes of the dispatch table: operand bytes have no illegal value
(30_encoding.md R90), so the one condition is that an `unrecognized` byte is one of the 151 of R89. -/

namespace Sys2Proof

/-- The 151 unrecognized opcode bytes, as the inclusive ranges of R89, in its order. -/
def unrecognizedRanges : List (Nat × Nat) :=
  [(0x01, 0x03), (0x07, 0x0B), (0x0F, 0x13), (0x17, 0x1B), (0x1F, 0x23), (0x27, 0x2B), (0x2F, 0x31), (0x33, 0x39)]
    ++ [(0x3B, 0x3B), (0x3F, 0x3F), (0x46, 0x46), (0x4E, 0x4E), (0x56, 0x56), (0x5E, 0x5E), (0x66, 0x66), (0x6E, 0x6E)]
    ++ [(0x70, 0x75), (0x77, 0x77), (0x7E, 0x7E), (0x86, 0x86), (0x8E, 0x8E), (0x96, 0x96), (0x9E, 0x9E)]
    ++ [(0xA0, 0xC2), (0xC4, 0xD2), (0xD4, 0xDA), (0xDC, 0xFF)]

/-- `op` is in one of R89's ranges. -/
def isUnrecognized (op : Byte) : Bool :=
  unrecognizedRanges.any fun r => r.1 ≤ op.toNat && op.toNat ≤ r.2

/-- The well-formed instruction terms. -/
def Instr.wf : Instr → Bool
  | .unrecognized op => isUnrecognized op
  | .nop | .hlt
  | .movBB | .movBC | .movBD | .movBE | .movBH | .movBL | .movBA
  | .movCB | .movCC | .movCD | .movCE | .movCH | .movCL | .movCA
  | .movDB | .movDC | .movDD | .movDE | .movDH | .movDL | .movDA
  | .movEB | .movEC | .movED | .movEE | .movEH | .movEL | .movEA
  | .movHB | .movHC | .movHD | .movHE | .movHH | .movHL | .movHA
  | .movLB | .movLC | .movLD | .movLE | .movLH | .movLL | .movLA
  | .movAB | .movAC | .movAD | .movAE | .movAH | .movAL | .movAA
  | .mviB _ | .mviC _ | .mviD _ | .mviE _ | .mviH _ | .mviL _ | .mviA _
  | .lda _ | .sta _
  | .addB | .addC | .addD | .addE | .addH | .addL | .addA
  | .adcB | .adcC | .adcD | .adcE | .adcH | .adcL | .adcA
  | .subB | .subC | .subD | .subE | .subH | .subL | .subA
  | .sbbB | .sbbC | .sbbD | .sbbE | .sbbH | .sbbL | .sbbA
  | .inrB | .inrC | .inrD | .inrE | .inrH | .inrL | .inrA
  | .dcrB | .dcrC | .dcrD | .dcrE | .dcrH | .dcrL | .dcrA
  | .jmp _ | .outPort _ | .inPort _ => true

end Sys2Proof
end

