-- ==== Sys2Proof/Decode.lean ====
section
/-! DEFINITION. The decoder, from the field layout of 30_encoding.md R82, and AFTER it the encoder, from the opcode map
of R88. PRESUMED (unsafe): 101 of the 105 opcode bytes and the fields are the 8085's, by the spec's decision D1 (log entry 4). -/

namespace Sys2Proof

/-! ## Byte order (R60, R85) -/

/-- `hi : lo` of R8, the 16-bit value `hi * 256 + lo`. -/
def joinBytes (hi lo : Byte) : Addr := BitVec.ofNat 16 (hi.toNat * 256 + lo.toNat)

/-- Bits 7:0 of a 16-bit value. -/
def loByte (a : Addr) : Byte := BitVec.ofNat 8 (a.toNat % 256)

/-- Bits 15:8 of a 16-bit value. -/
def hiByte (a : Addr) : Byte := BitVec.ofNat 8 (a.toNat / 256)

/-! ## Register codes (10_state.md R21) -/

/-- The 3-bit code of a register. -/
def Reg.code : Reg → Nat
  | .b => 0 | .c => 1 | .d => 2 | .e => 3 | .h => 4 | .l => 5 | .a => 7

/-- The register a 3-bit code names; code 6 names none (R83). -/
def Reg.ofCode : Nat → Option Reg
  | 0 => some .b | 1 => some .c | 2 => some .d | 3 => some .e | 4 => some .h | 5 => some .l | 7 => some .a
  | _ => none

/-! ## The constructor of a family for its register operands -/

/-- MOV r1,r2 with destination `r1` (R110). -/
def movInstr (r1 r2 : Reg) : Instr :=
  match r1, r2 with
  | .b, .b => .movBB | .b, .c => .movBC | .b, .d => .movBD | .b, .e => .movBE | .b, .h => .movBH | .b, .l => .movBL | .b, .a => .movBA
  | .c, .b => .movCB | .c, .c => .movCC | .c, .d => .movCD | .c, .e => .movCE | .c, .h => .movCH | .c, .l => .movCL | .c, .a => .movCA
  | .d, .b => .movDB | .d, .c => .movDC | .d, .d => .movDD | .d, .e => .movDE | .d, .h => .movDH | .d, .l => .movDL | .d, .a => .movDA
  | .e, .b => .movEB | .e, .c => .movEC | .e, .d => .movED | .e, .e => .movEE | .e, .h => .movEH | .e, .l => .movEL | .e, .a => .movEA
  | .h, .b => .movHB | .h, .c => .movHC | .h, .d => .movHD | .h, .e => .movHE | .h, .h => .movHH | .h, .l => .movHL | .h, .a => .movHA
  | .l, .b => .movLB | .l, .c => .movLC | .l, .d => .movLD | .l, .e => .movLE | .l, .h => .movLH | .l, .l => .movLL | .l, .a => .movLA
  | .a, .b => .movAB | .a, .c => .movAC | .a, .d => .movAD | .a, .e => .movAE | .a, .h => .movAH | .a, .l => .movAL | .a, .a => .movAA

/-- The `mvi` constructor for each register (R111). -/
def mviInstr : Reg → Byte → Instr
  | .b => .mviB | .c => .mviC | .d => .mviD | .e => .mviE | .h => .mviH | .l => .mviL | .a => .mviA

/-- The `add` constructor for each register (R123). -/
def addInstr : Reg → Instr
  | .b => .addB | .c => .addC | .d => .addD | .e => .addE | .h => .addH | .l => .addL | .a => .addA

/-- The `adc` constructor for each register (R124). -/
def adcInstr : Reg → Instr
  | .b => .adcB | .c => .adcC | .d => .adcD | .e => .adcE | .h => .adcH | .l => .adcL | .a => .adcA

/-- The `sub` constructor for each register (R125). -/
def subInstr : Reg → Instr
  | .b => .subB | .c => .subC | .d => .subD | .e => .subE | .h => .subH | .l => .subL | .a => .subA

/-- The `sbb` constructor for each register (R126). -/
def sbbInstr : Reg → Instr
  | .b => .sbbB | .c => .sbbC | .d => .sbbD | .e => .sbbE | .h => .sbbH | .l => .sbbL | .a => .sbbA

/-- The `inr` constructor for each register (R130). -/
def inrInstr : Reg → Instr
  | .b => .inrB | .c => .inrC | .d => .inrD | .e => .inrE | .h => .inrH | .l => .inrL | .a => .inrA

/-- The `dcr` constructor for each register (R131). -/
def dcrInstr : Reg → Instr
  | .b => .dcrB | .c => .dcrC | .d => .dcrD | .e => .dcrE | .h => .dcrH | .l => .dcrL | .a => .dcrA

/-! ## The dispatch table (R80) -/

/-- One row of the dispatch table: what the opcode byte selects and which operand bytes follow it (formats F1, F2 and F3
of R81). -/
inductive TableEntry where
  /-- F1: no operand byte -/
  | f1 (i : Instr)
  /-- F2: one operand byte, an immediate or a port -/
  | f2 (mk : Byte → Instr)
  /-- F3: two operand bytes, a 16-bit address, low byte first -/
  | f3 (mk : Addr → Instr)

/-- Field `grp`, bits 7:6 (R82). -/
def opGrp (op : Byte) : Nat := op.toNat / 64

/-- Field `ddd`, bits 5:3 (R82). -/
def opDdd (op : Byte) : Nat := op.toNat / 8 % 8

/-- Field `sss`, bits 2:0 (R82). -/
def opSss (op : Byte) : Nat := op.toNat % 8

/-- Group 00: INR, DCR, MVI by `sss`, and the whole bytes NOP, STA, LDA (R82). -/
def tableGroup0 (op : Byte) : TableEntry :=
  match Reg.ofCode (opDdd op), opSss op with
  | some r, 4 => .f1 (inrInstr r)
  | some r, 5 => .f1 (dcrInstr r)
  | some r, 6 => .f2 (mviInstr r)
  | _, _ =>
    if op = 0x00 then .f1 .nop
    else if op = 0x32 then .f3 .sta
    else if op = 0x3A then .f3 .lda
    else .f1 (.unrecognized op)

/-- Group 01: HLT, and MOV where both codes name a register (R82, R83). -/
def tableGroup1 (op : Byte) : TableEntry :=
  if op = 0x76 then .f1 .hlt
  else
    match Reg.ofCode (opDdd op), Reg.ofCode (opSss op) with
    | some r1, some r2 => .f1 (movInstr r1 r2)
    | _, _ => .f1 (.unrecognized op)

/-- Group 10: bit 5 is 0 and bits 4:3 select ADD, ADC, SUB, SBB (R82). -/
def tableGroup2 (op : Byte) : TableEntry :=
  match opDdd op, Reg.ofCode (opSss op) with
  | 0, some r => .f1 (addInstr r)
  | 1, some r => .f1 (adcInstr r)
  | 2, some r => .f1 (subInstr r)
  | 3, some r => .f1 (sbbInstr r)
  | _, _ => .f1 (.unrecognized op)

/-- Group 11: the whole bytes JMP, OUT, IN (R82). -/
def tableGroup3 (op : Byte) : TableEntry :=
  if op = 0xC3 then .f3 .jmp
  else if op = 0xD3 then .f2 .outPort
  else if op = 0xDB then .f2 .inPort
  else .f1 (.unrecognized op)

/-- The fixed, total mapping from the opcode byte (R80). It depends on the byte alone. -/
def dispatchTable (op : Byte) : TableEntry :=
  match opGrp op with
  | 0 => tableGroup0 op
  | 1 => tableGroup1 op
  | 2 => tableGroup2 op
  | _ => tableGroup3 op

/-- The length in bytes of a row's instructions (R81). -/
def TableEntry.length : TableEntry → Nat
  | .f1 _ => 1 | .f2 _ => 2 | .f3 _ => 3

/-- The length of an instruction, from its opcode byte alone (R86). -/
def opcodeLength (op : Byte) : Nat := (dispatchTable op).length

/-- Why a list of bytes holds no instruction. Only a list that ends too soon is rejected: a machine always has a next
byte to fetch, so no step meets either. -/
inductive DecodeReject where
  /-- the list is empty: there is no opcode byte -/
  | noOpcode
  /-- the list ends before the operand bytes of the opcode `op` -/
  | noOperand (op : Byte)
deriving DecidableEq, Repr

/-- The instruction at the head of a list of bytes, in ascending address order, and the bytes after it. -/
def decode : List Byte → Except DecodeReject (Instr × List Byte)
  | [] => .error .noOpcode
  | op :: rest =>
    match dispatchTable op, rest with
    | .f1 i, rest => .ok (i, rest)
    | .f2 mk, b :: rest => .ok (mk b, rest)
    | .f3 mk, lo :: hi :: rest => .ok (mk (joinBytes hi lo), rest)
    | _, _ => .error (.noOperand op)

/-- What the decoder reads from a word numbered as spec/opcode_table.json numbers it: the bits from `nbits` on are 0,
the first byte is bits 7..0, and three bytes (the longest instruction) are laid out. -/
def tableWordBytes (nbits w : Nat) : List Byte :=
  let v := w % 2 ^ nbits
  [BitVec.ofNat 8 v, BitVec.ofNat 8 (v / 256), BitVec.ofNat 8 (v / 65536)]

/-- The instruction the decoder reads from such a word. -/
def decodeTableWord (nbits w : Nat) : Option Instr :=
  match decode (tableWordBytes nbits w) with
  | .ok (i, _) => some i
  | .error _ => none

/-! ## The encoder, byte for byte from the opcode map of R88 -/

/-- The bytes of an instruction, in ascending address order (R81, R88). -/
def encode : Instr → List Byte
  | .nop => [0x00] | .hlt => [0x76] | .unrecognized op => [op]
  | .movBB => [0x40] | .movBC => [0x41] | .movBD => [0x42] | .movBE => [0x43] | .movBH => [0x44] | .movBL => [0x45] | .movBA => [0x47]
  | .movCB => [0x48] | .movCC => [0x49] | .movCD => [0x4A] | .movCE => [0x4B] | .movCH => [0x4C] | .movCL => [0x4D] | .movCA => [0x4F]
  | .movDB => [0x50] | .movDC => [0x51] | .movDD => [0x52] | .movDE => [0x53] | .movDH => [0x54] | .movDL => [0x55] | .movDA => [0x57]
  | .movEB => [0x58] | .movEC => [0x59] | .movED => [0x5A] | .movEE => [0x5B] | .movEH => [0x5C] | .movEL => [0x5D] | .movEA => [0x5F]
  | .movHB => [0x60] | .movHC => [0x61] | .movHD => [0x62] | .movHE => [0x63] | .movHH => [0x64] | .movHL => [0x65] | .movHA => [0x67]
  | .movLB => [0x68] | .movLC => [0x69] | .movLD => [0x6A] | .movLE => [0x6B] | .movLH => [0x6C] | .movLL => [0x6D] | .movLA => [0x6F]
  | .movAB => [0x78] | .movAC => [0x79] | .movAD => [0x7A] | .movAE => [0x7B] | .movAH => [0x7C] | .movAL => [0x7D] | .movAA => [0x7F]
  | .mviB d8 => [0x06, d8] | .mviC d8 => [0x0E, d8] | .mviD d8 => [0x16, d8] | .mviE d8 => [0x1E, d8]
  | .mviH d8 => [0x26, d8] | .mviL d8 => [0x2E, d8] | .mviA d8 => [0x3E, d8]
  | .lda a16 => [0x3A, loByte a16, hiByte a16] | .sta a16 => [0x32, loByte a16, hiByte a16]
  | .addB => [0x80] | .addC => [0x81] | .addD => [0x82] | .addE => [0x83] | .addH => [0x84] | .addL => [0x85] | .addA => [0x87]
  | .adcB => [0x88] | .adcC => [0x89] | .adcD => [0x8A] | .adcE => [0x8B] | .adcH => [0x8C] | .adcL => [0x8D] | .adcA => [0x8F]
  | .subB => [0x90] | .subC => [0x91] | .subD => [0x92] | .subE => [0x93] | .subH => [0x94] | .subL => [0x95] | .subA => [0x97]
  | .sbbB => [0x98] | .sbbC => [0x99] | .sbbD => [0x9A] | .sbbE => [0x9B] | .sbbH => [0x9C] | .sbbL => [0x9D] | .sbbA => [0x9F]
  | .inrB => [0x04] | .inrC => [0x0C] | .inrD => [0x14] | .inrE => [0x1C] | .inrH => [0x24] | .inrL => [0x2C] | .inrA => [0x3C]
  | .dcrB => [0x05] | .dcrC => [0x0D] | .dcrD => [0x15] | .dcrE => [0x1D] | .dcrH => [0x25] | .dcrL => [0x2D] | .dcrA => [0x3D]
  | .jmp a16 => [0xC3, loByte a16, hiByte a16] | .outPort p8 => [0xD3, p8] | .inPort p8 => [0xDB, p8]

end Sys2Proof
end

