-- ==== Sys2Proof/Machine/Ops.lean ====
section
/-! DEFINITION. The named operations of the block: the register file, the banked memory controller (20_memory.md R52 to
R54), operand fetch (30_encoding.md R84, R85), the stack primitives (46_stack_primitives.md R150, R151) and the I/O
interface (45_io.md R140 to R144). The block takes no exception and returns from none (60_exceptions.md R186, R187), so
there is no operation for either. -/

namespace Sys2Proof.Machine

/-! ## The register file (10_state.md R21, R24) -/

/-- `x[i]`. -/
def Regs.get (x : Regs) : Reg → Byte
  | .b => x.b | .c => x.c | .d => x.d | .e => x.e | .h => x.h | .l => x.l | .a => x.a

/-- `x[i] <- v`: exactly the named register. -/
def Regs.set (x : Regs) (r : Reg) (v : Byte) : Regs :=
  match r with
  | .b => { x with b := v } | .c => { x with c := v } | .d => { x with d := v } | .e => { x with e := v }
  | .h => { x with h := v } | .l => { x with l := v } | .a => { x with a := v }

/-- Read a register of the state. -/
def State.getReg (s : State) (r : Reg) : Byte := s.regs.get r

/-- Write a register of the state; a register write has no side effect (R24). -/
def State.setReg (s : State) (r : Reg) (v : Byte) : State := { s with regs := s.regs.set r v }

/-- Write the five flags. -/
def State.setFlags (s : State) (f : Flags) : State := { s with flags := f }

/-- `pc <- v`. -/
def State.setPC (s : State) (v : Addr) : State := { s with pc := v }

/-- `sp <- v`. -/
def State.setSP (s : State) (v : Addr) : State := { s with sp := v }

/-- `halted <- 1` (40_step_and_control.md R103). -/
def State.halt (s : State) : State := { s with halted := true }

/-- `bank_en <- b` (48_host_operations.md R166). -/
def State.setBankEn (s : State) (b : Bool) : State := { s with bankEn := b }

/-- `bank <- k`; copies and clears nothing (20_memory.md R56). -/
def State.selectBank (s : State) (k : Nat) : State := { s with bank := k }

/-! ## Storage -/

/-- The byte a sparse list holds at a key. -/
def cellsRead : List Host.Cell → Nat → Byte
  | [], _ => unlistedByte
  | (b, w) :: m, a => if a = b then w else cellsRead m a

/-- Store a byte at a key, keeping the canonical form: the keys rise, and the unlisted value is not listed. -/
def cellsWrite : List Host.Cell → Nat → Byte → List Host.Cell
  | [], a, v => if v = unlistedByte then [] else [(a, v)]
  | (b, w) :: m, a, v =>
    if a < b then (if v = unlistedByte then (b, w) :: m else (a, v) :: (b, w) :: m)
    else if a = b then (if v = unlistedByte then m else (a, v) :: m)
    else (b, w) :: cellsWrite m a v

/-- The canonical form of a sparse list. -/
abbrev cellsWf (m : List Host.Cell) : Prop :=
  m.Pairwise (fun x y => x.1 < y.1) ∧ ∀ c ∈ m, c.2 ≠ unlistedByte

/-- The canonical form of the memory: equal memories are equal data. -/
abbrev Memory.wf (m : Memory) : Prop := cellsWf m.common ∧ cellsWf m.bankmem

/-- The key of `bankmem[k][o]`: an offset is below 65536, so two cells never share one (log entry 5). -/
def bankKey (k : Nat) (o : Addr) : Nat := k * 65536 + o.toNat

/-- The content of a storage cell. -/
def Memory.readCell (m : Memory) : StoreCell → Byte
  | .common a => cellsRead m.common a.toNat
  | .bank k o => cellsRead m.bankmem (bankKey k o)

/-- Store a byte in a storage cell and change no other. -/
def Memory.writeCell (m : Memory) (c : StoreCell) (v : Byte) : Memory :=
  match c with
  | .common a => { m with common := cellsWrite m.common a.toNat v }
  | .bank k o => { m with bankmem := cellsWrite m.bankmem (bankKey k o) v }

/-! ## The banked memory controller -/

/-- `addr` is in WINDOW (00_scope.md R6). -/
def inWindow (c : Config) (addr : Addr) : Bool :=
  c.bankBase ≤ addr.toNat && addr.toNat < c.bankBase + c.bankSize

/-- The window-relative offset `addr - BANK_BASE` (R52). -/
def windowOffset (c : Config) (addr : Addr) : Addr := BitVec.ofNat 16 (addr.toNat - c.bankBase)

/-- `Route(addr)` (R52; with switching disabled the window is bank 0, conflict C2). -/
def State.route (s : State) (addr : Addr) : StoreCell :=
  if inWindow s.cfg addr then
    if s.bankEn then .bank s.bank (windowOffset s.cfg addr)
    else .bank 0 (windowOffset s.cfg addr)
  else .common addr

/-- `MemRead(addr, 1)` (R53). -/
def State.memRead (s : State) (addr : Addr) : Byte := s.mem.readCell (s.route addr)

/-- `MemWrite(addr, 1, v)` (R54). -/
def State.memWrite (s : State) (addr : Addr) (v : Byte) : State :=
  { s with mem := s.mem.writeCell (s.route addr) v }

/-- Store a list of bytes through the controller at ascending addresses (R163). -/
def State.memWriteList (s : State) (a : Addr) : List Byte → State
  | [] => s
  | v :: vs => (s.memWrite a v).memWriteList (a + 1) vs

/-! ## Operand fetch -/

/-- `Fetch8()` (R84). -/
def State.fetch8 (s : State) : Byte × State := (s.memRead s.pc, s.setPC (s.pc + 1))

/-- `Fetch16()`: low byte first (R85). -/
def State.fetch16 (s : State) : Addr × State :=
  let lo := s.fetch8
  let hi := lo.2.fetch8
  (joinBytes hi.1 lo.1, hi.2)

/-- The instruction at `pc`: the opcode byte, then the operand bytes its row of the dispatch table has, in ascending
address order, all before any effect (R100, R101). Nothing beyond the instruction's own bytes is fetched. -/
def State.fetchInstr (s : State) : Instr × State :=
  let op := s.fetch8
  match dispatchTable op.1 with
  | .f1 i => (i, op.2)
  | .f2 form => (form op.2.fetch8.1, op.2.fetch8.2)
  | .f3 form => (form op.2.fetch16.1, op.2.fetch16.2)

/-! ## The stack primitives, which no opcode reaches (R152) -/

/-- `Push16(v)`: the high byte at the higher address (R150). -/
def State.push16 (s : State) (v : Addr) : State :=
  let s1 := s.setSP (s.sp - 1)
  let s2 := s1.memWrite s1.sp (hiByte v)
  let s3 := s2.setSP (s2.sp - 1)
  s3.memWrite s3.sp (loByte v)

/-- `Pop16()` (R151). -/
def State.pop16 (s : State) : Addr × State :=
  let lo := s.memRead s.sp
  let s1 := s.setSP (s.sp + 1)
  let hi := s1.memRead s1.sp
  (joinBytes hi lo, s1.setSP (s1.sp + 1))

/-! ## The I/O interface -/

/-- The write effect of the bank-select port: `bank <- v mod BANK_COUNT` (R140, R144). -/
def State.writeBankPort (s : State) (v : Byte) : State := s.selectBank (v.toNat % s.cfg.bankCount)

/-- The read value of the bank-select port: `zext_8(bank)` (R141, R144). -/
def State.readBankPort (s : State) : Byte := BitVec.ofNat 8 s.bank

/-- `IoWrite(port, v)`: the pair is presented on the I/O interface and no state of the block changes (R142). -/
def State.ioWrite (s : State) (port v : Byte) : State := { s with ioWrites := (port, v) :: s.ioWrites }

/-- `IoRead(port)`: a byte under no law, fresh at each reading (R143). -/
def State.ioRead (s : State) (port : Byte) : Byte × State :=
  (Config.ioRead s.ioDraws port, { s with ioDraws := s.ioDraws + 1 })

end Sys2Proof.Machine
end

