-- ==== Sys2Proof/Machine/Operands.lean ====
section
/-! DEFINITION. The operand forms. The block has exactly three (41_data_transfer.md, preamble): register (`State.getReg`,
`State.setReg`), immediate (the fetched byte itself, 30_encoding.md R85) and direct (below); an I/O instruction names a
port byte. The pairs of 10_state.md R22 are views that no instruction uses. -/

namespace Sys2Proof.Machine

/-- The direct operand, read: the byte the controller returns for the 16-bit address as assembled (R112, R85). -/
def State.readDirect (s : State) (a16 : Addr) : Byte := s.memRead a16

/-- The direct operand, written (R113). -/
def State.writeDirect (s : State) (a16 : Addr) (v : Byte) : State := s.memWrite a16 v

/-- The view `BC = B : C` (R22). -/
def State.pairBC (s : State) : Addr := joinBytes (s.getReg .b) (s.getReg .c)

/-- The view `DE = D : E` (R22). -/
def State.pairDE (s : State) : Addr := joinBytes (s.getReg .d) (s.getReg .e)

/-- The view `HL = H : L` (R22). -/
def State.pairHL (s : State) : Addr := joinBytes (s.getReg .h) (s.getReg .l)

end Sys2Proof.Machine
end

