-- ==== Sys2Proof/Machine/Arithmetic.lean ====
section
/-! DEFINITION. ADD, ADC, SUB, SBB (42_arithmetic.md R123 to R126). The destination is always `A`. -/

namespace Sys2Proof.Machine

/-- `A` and the flags take what an 8-bit operation returns. -/
def State.writeAcc (s : State) (out : Byte × Flags) : State := (s.setReg .a out.1).setFlags out.2

/-- ADD r: `A <- AddCore(A, x[sss], 0)` (R123). -/
def addReg (r : Reg) (s : State) : Result := .next (s.writeAcc (addCore (s.getReg .a) (s.getReg r) false))

/-- ADC r: `A <- AddCore(A, x[sss], CY)`, `CY` read before it is rewritten (R124). -/
def adcReg (r : Reg) (s : State) : Result := .next (s.writeAcc (addCore (s.getReg .a) (s.getReg r) s.flags.cy))

/-- SUB r: `A <- SubCore(A, x[sss], 0)` (R125). -/
def subReg (r : Reg) (s : State) : Result := .next (s.writeAcc (subCore (s.getReg .a) (s.getReg r) false))

/-- SBB r: `A <- SubCore(A, x[sss], CY)`, `CY` read before it is rewritten (R126). -/
def sbbReg (r : Reg) (s : State) : Result := .next (s.writeAcc (subCore (s.getReg .a) (s.getReg r) s.flags.cy))

/-- ADD_B (R123). -/
def execAddB (s : State) : Result := addReg .b s

/-- ADD_C (R123). -/
def execAddC (s : State) : Result := addReg .c s

/-- ADD_D (R123). -/
def execAddD (s : State) : Result := addReg .d s

/-- ADD_E (R123). -/
def execAddE (s : State) : Result := addReg .e s

/-- ADD_H (R123). -/
def execAddH (s : State) : Result := addReg .h s

/-- ADD_L (R123). -/
def execAddL (s : State) : Result := addReg .l s

/-- ADD_A (R123). -/
def execAddA (s : State) : Result := addReg .a s

/-- ADC_B (R124). -/
def execAdcB (s : State) : Result := adcReg .b s

/-- ADC_C (R124). -/
def execAdcC (s : State) : Result := adcReg .c s

/-- ADC_D (R124). -/
def execAdcD (s : State) : Result := adcReg .d s

/-- ADC_E (R124). -/
def execAdcE (s : State) : Result := adcReg .e s

/-- ADC_H (R124). -/
def execAdcH (s : State) : Result := adcReg .h s

/-- ADC_L (R124). -/
def execAdcL (s : State) : Result := adcReg .l s

/-- ADC_A (R124). -/
def execAdcA (s : State) : Result := adcReg .a s

/-- SUB_B (R125). -/
def execSubB (s : State) : Result := subReg .b s

/-- SUB_C (R125). -/
def execSubC (s : State) : Result := subReg .c s

/-- SUB_D (R125). -/
def execSubD (s : State) : Result := subReg .d s

/-- SUB_E (R125). -/
def execSubE (s : State) : Result := subReg .e s

/-- SUB_H (R125). -/
def execSubH (s : State) : Result := subReg .h s

/-- SUB_L (R125). -/
def execSubL (s : State) : Result := subReg .l s

/-- SUB_A (R125). -/
def execSubA (s : State) : Result := subReg .a s

/-- SBB_B (R126). -/
def execSbbB (s : State) : Result := sbbReg .b s

/-- SBB_C (R126). -/
def execSbbC (s : State) : Result := sbbReg .c s

/-- SBB_D (R126). -/
def execSbbD (s : State) : Result := sbbReg .d s

/-- SBB_E (R126). -/
def execSbbE (s : State) : Result := sbbReg .e s

/-- SBB_H (R126). -/
def execSbbH (s : State) : Result := sbbReg .h s

/-- SBB_L (R126). -/
def execSbbL (s : State) : Result := sbbReg .l s

/-- SBB_A (R126). -/
def execSbbA (s : State) : Result := sbbReg .a s

end Sys2Proof.Machine
end

