-- ==== Sys2Proof/Machine/Control.lean ====
section
/-! DEFINITION. NOP, HLT and the unrecognized opcodes (40_step_and_control.md R102, R103, R105). -/

namespace Sys2Proof.Machine

/-- NOP: nothing beyond the fetch (R102). -/
def execNop (s : State) : Result := .next s

/-- HLT: `halted <- 1`; `pc` stays past the HLT byte (R103, the spec's decision D20). -/
def execHlt (s : State) : Result := .next s.halt

/-- UNRECOGNIZED: a silent one-byte no-op, whatever the byte is (R105, the spec's decision D4). -/
def execUnrecognized (_op : Byte) (s : State) : Result := .next s

end Sys2Proof.Machine
end

