-- ==== Sys2Proof/Machine/IncDec.lean ====
section
/-! DEFINITION. INR and DCR (43_inr_dcr.md R130, R131): `S`, `Z`, `AC`, `P` written, `CY` kept. -/

namespace Sys2Proof.Machine

/-- INR r (R130). -/
def incReg (r : Reg) (s : State) : Result :=
  let out := incCore (s.getReg r) s.flags
  .next ((s.setReg r out.1).setFlags out.2)

/-- DCR r (R131). -/
def decReg (r : Reg) (s : State) : Result :=
  let out := decCore (s.getReg r) s.flags
  .next ((s.setReg r out.1).setFlags out.2)

/-- INR_B (R130). -/
def execInrB (s : State) : Result := incReg .b s

/-- INR_C (R130). -/
def execInrC (s : State) : Result := incReg .c s

/-- INR_D (R130). -/
def execInrD (s : State) : Result := incReg .d s

/-- INR_E (R130). -/
def execInrE (s : State) : Result := incReg .e s

/-- INR_H (R130). -/
def execInrH (s : State) : Result := incReg .h s

/-- INR_L (R130). -/
def execInrL (s : State) : Result := incReg .l s

/-- INR_A (R130). -/
def execInrA (s : State) : Result := incReg .a s

/-- DCR_B (R131). -/
def execDcrB (s : State) : Result := decReg .b s

/-- DCR_C (R131). -/
def execDcrC (s : State) : Result := decReg .c s

/-- DCR_D (R131). -/
def execDcrD (s : State) : Result := decReg .d s

/-- DCR_E (R131). -/
def execDcrE (s : State) : Result := decReg .e s

/-- DCR_H (R131). -/
def execDcrH (s : State) : Result := decReg .h s

/-- DCR_L (R131). -/
def execDcrL (s : State) : Result := decReg .l s

/-- DCR_A (R131). -/
def execDcrA (s : State) : Result := decReg .a s

end Sys2Proof.Machine
end

