-- ==== Sys2Proof/Machine/Io.lean ====
section
/-! DEFINITION. OUT and IN (45_io.md R140 to R143). Neither writes a flag. -/

namespace Sys2Proof.Machine

/-- OUT p8: port 0xFF sets the bank from `A`, whatever `bank_en` is (R140); any other port only presents the pair (R142). -/
def execOutPort (p8 : Byte) (s : State) : Result :=
  if p8 = Config.bankPort then .next (s.writeBankPort (s.getReg .a))
  else .next (s.ioWrite p8 (s.getReg .a))

/-- IN p8: port 0xFF reads the bank index, whatever `bank_en` is (R141); any other port reads a free byte (R143). -/
def execInPort (p8 : Byte) (s : State) : Result :=
  if p8 = Config.bankPort then .next (s.setReg .a s.readBankPort)
  else .next ((s.ioRead p8).2.setReg .a (s.ioRead p8).1)

end Sys2Proof.Machine
end

