-- ==== Sys2Proof/Machine/Jump.lean ====
section
/-! DEFINITION. JMP (44_jump.md R135). -/

namespace Sys2Proof.Machine

/-- JMP a16: `pc <- target`, absolute (R135). -/
def execJmp (a16 : Addr) (s : State) : Result := .next (s.setPC a16)

end Sys2Proof.Machine
end

