-- ==== Sys2Proof/Machine/Transfer.lean ====
section
/-! DEFINITION. MOV, MVI, LDA, STA (41_data_transfer.md R110 to R113). None writes a flag. -/

namespace Sys2Proof.Machine

/-- MOV r1,r2: `x[ddd] <- x[sss]` (R110). -/
def movReg (r1 r2 : Reg) (s : State) : Result := .next (s.setReg r1 (s.getReg r2))

/-- MVI r,d8: `x[ddd] <- d8`, the byte already fetched (R111). -/
def moveImm (r : Reg) (d8 : Byte) (s : State) : Result := .next (s.setReg r d8)

/-- MOV_B_B (R110). -/
def execMovBB (s : State) : Result := movReg .b .b s

/-- MOV_B_C (R110). -/
def execMovBC (s : State) : Result := movReg .b .c s

/-- MOV_B_D (R110). -/
def execMovBD (s : State) : Result := movReg .b .d s

/-- MOV_B_E (R110). -/
def execMovBE (s : State) : Result := movReg .b .e s

/-- MOV_B_H (R110). -/
def execMovBH (s : State) : Result := movReg .b .h s

/-- MOV_B_L (R110). -/
def execMovBL (s : State) : Result := movReg .b .l s

/-- MOV_B_A (R110). -/
def execMovBA (s : State) : Result := movReg .b .a s

/-- MOV_C_B (R110). -/
def execMovCB (s : State) : Result := movReg .c .b s

/-- MOV_C_C (R110). -/
def execMovCC (s : State) : Result := movReg .c .c s

/-- MOV_C_D (R110). -/
def execMovCD (s : State) : Result := movReg .c .d s

/-- MOV_C_E (R110). -/
def execMovCE (s : State) : Result := movReg .c .e s

/-- MOV_C_H (R110). -/
def execMovCH (s : State) : Result := movReg .c .h s

/-- MOV_C_L (R110). -/
def execMovCL (s : State) : Result := movReg .c .l s

/-- MOV_C_A (R110). -/
def execMovCA (s : State) : Result := movReg .c .a s

/-- MOV_D_B (R110). -/
def execMovDB (s : State) : Result := movReg .d .b s

/-- MOV_D_C (R110). -/
def execMovDC (s : State) : Result := movReg .d .c s

/-- MOV_D_D (R110). -/
def execMovDD (s : State) : Result := movReg .d .d s

/-- MOV_D_E (R110). -/
def execMovDE (s : State) : Result := movReg .d .e s

/-- MOV_D_H (R110). -/
def execMovDH (s : State) : Result := movReg .d .h s

/-- MOV_D_L (R110). -/
def execMovDL (s : State) : Result := movReg .d .l s

/-- MOV_D_A (R110). -/
def execMovDA (s : State) : Result := movReg .d .a s

/-- MOV_E_B (R110). -/
def execMovEB (s : State) : Result := movReg .e .b s

/-- MOV_E_C (R110). -/
def execMovEC (s : State) : Result := movReg .e .c s

/-- MOV_E_D (R110). -/
def execMovED (s : State) : Result := movReg .e .d s

/-- MOV_E_E (R110). -/
def execMovEE (s : State) : Result := movReg .e .e s

/-- MOV_E_H (R110). -/
def execMovEH (s : State) : Result := movReg .e .h s

/-- MOV_E_L (R110). -/
def execMovEL (s : State) : Result := movReg .e .l s

/-- MOV_E_A (R110). -/
def execMovEA (s : State) : Result := movReg .e .a s

/-- MOV_H_B (R110). -/
def execMovHB (s : State) : Result := movReg .h .b s

/-- MOV_H_C (R110). -/
def execMovHC (s : State) : Result := movReg .h .c s

/-- MOV_H_D (R110). -/
def execMovHD (s : State) : Result := movReg .h .d s

/-- MOV_H_E (R110). -/
def execMovHE (s : State) : Result := movReg .h .e s

/-- MOV_H_H (R110). -/
def execMovHH (s : State) : Result := movReg .h .h s

/-- MOV_H_L (R110). -/
def execMovHL (s : State) : Result := movReg .h .l s

/-- MOV_H_A (R110). -/
def execMovHA (s : State) : Result := movReg .h .a s

/-- MOV_L_B (R110). -/
def execMovLB (s : State) : Result := movReg .l .b s

/-- MOV_L_C (R110). -/
def execMovLC (s : State) : Result := movReg .l .c s

/-- MOV_L_D (R110). -/
def execMovLD (s : State) : Result := movReg .l .d s

/-- MOV_L_E (R110). -/
def execMovLE (s : State) : Result := movReg .l .e s

/-- MOV_L_H (R110). -/
def execMovLH (s : State) : Result := movReg .l .h s

/-- MOV_L_L (R110). -/
def execMovLL (s : State) : Result := movReg .l .l s

/-- MOV_L_A (R110). -/
def execMovLA (s : State) : Result := movReg .l .a s

/-- MOV_A_B (R110). -/
def execMovAB (s : State) : Result := movReg .a .b s

/-- MOV_A_C (R110). -/
def execMovAC (s : State) : Result := movReg .a .c s

/-- MOV_A_D (R110). -/
def execMovAD (s : State) : Result := movReg .a .d s

/-- MOV_A_E (R110). -/
def execMovAE (s : State) : Result := movReg .a .e s

/-- MOV_A_H (R110). -/
def execMovAH (s : State) : Result := movReg .a .h s

/-- MOV_A_L (R110). -/
def execMovAL (s : State) : Result := movReg .a .l s

/-- MOV_A_A (R110). -/
def execMovAA (s : State) : Result := movReg .a .a s

/-- MVI_B_d8 (R111). -/
def execMviB (d8 : Byte) (s : State) : Result := moveImm .b d8 s

/-- MVI_C_d8 (R111). -/
def execMviC (d8 : Byte) (s : State) : Result := moveImm .c d8 s

/-- MVI_D_d8 (R111). -/
def execMviD (d8 : Byte) (s : State) : Result := moveImm .d d8 s

/-- MVI_E_d8 (R111). -/
def execMviE (d8 : Byte) (s : State) : Result := moveImm .e d8 s

/-- MVI_H_d8 (R111). -/
def execMviH (d8 : Byte) (s : State) : Result := moveImm .h d8 s

/-- MVI_L_d8 (R111). -/
def execMviL (d8 : Byte) (s : State) : Result := moveImm .l d8 s

/-- MVI_A_d8 (R111). -/
def execMviA (d8 : Byte) (s : State) : Result := moveImm .a d8 s

/-- LDA_a16: `A <- MemRead(addr, 1)` (R112). -/
def execLda (a16 : Addr) (s : State) : Result := .next (s.setReg .a (s.readDirect a16))

/-- STA_a16: `MemWrite(addr, 1, A)` (R113). -/
def execSta (a16 : Addr) (s : State) : Result := .next (s.writeDirect a16 (s.getReg .a))

end Sys2Proof.Machine
end

