-- ==== Sys2Proof/Machine/Step.lean ====
section
/-! DEFINITION. `Step`, one whole instruction (40_step_and_control.md R100), and how the host places an instruction where
the next step fetches it. -/

namespace Sys2Proof.Machine

/-- `Step` (R100): nothing when Halted, not even a fetch (R68, R104); otherwise fetch, decode and execute one
instruction. -/
def step (s : State) : Host.Outcome State Fault Refusal :=
  if s.halted then .next s
  else exec s.fetchInstr.1 s.fetchInstr.2

/-- `s` with the instruction of a table word stored at `pc`, through the controller, and Running, since a Halted block
fetches nothing (log entry 6). -/
def State.withFetchWord (s : State) (nbits w : Nat) : State :=
  { s.memWriteList s.pc (tableWordBytes nbits w) with halted := false }

end Sys2Proof.Machine
end

