-- ==== Sys2Proof/Machine/HostOps.lean ====
section
/-! DEFINITION. The host operations (48_host_operations.md R160 to R173), one atomic transition each, available Running
and Halted alike. -/

namespace Sys2Proof.Machine

/-- The names of the five flags (10_state.md R28), for the getters and setters. -/
inductive FlagName where
  | s | z | ac | p | cy
deriving DecidableEq, Repr

/-- The value of a flag (R171). -/
def Flags.get (f : Flags) : FlagName → Bool
  | .s => f.s | .z => f.z | .ac => f.ac | .p => f.p | .cy => f.cy

/-- One flag written, the others kept (R172). -/
def Flags.set (f : Flags) (n : FlagName) (b : Bool) : Flags :=
  match n with
  | .s => { f with s := b } | .z => { f with z := b } | .ac => { f with ac := b }
  | .p => { f with p := b } | .cy => { f with cy := b }

/-- Why a host operation fails; the one failing outcome there is (R163, R175). -/
inductive HostReject where
  /-- `loadProgram` would pass address 0xFFFF -/
  | programLoadOverflow
deriving DecidableEq, Repr

/-- `reset()`: R39's value in every piece of state of the block, from any state (R161). The configuration stays, and the
environment's own history, which is not the block's, is not undone (log entry 7). -/
def State.hostReset (s : State) : State :=
  { State.resetWith s.cfg with ioDraws := s.ioDraws, ioWrites := s.ioWrites }

/-- `loadProgram(bytes, start)`: rejected whole when it would pass 0xFFFF; otherwise the bytes are written through the
controller and `pc <- start`, and nothing else changes, `halted` included (R163). -/
def State.loadProgram (s : State) (bytes : List Byte) (start : Addr) : Except HostReject State :=
  if start.toNat + bytes.length > 65536 then .error .programLoadOverflow
  else .ok ((s.memWriteList start bytes).setPC start)

/-- `setBank(index)`: clamps (R167), where the port masks. -/
def State.hostSetBank (s : State) (index : Nat) : State :=
  if index ≥ s.cfg.bankCount then s.selectBank (s.cfg.bankCount - 1) else s.selectBank index

/-- The host operations. Numbers wider than the item they go to are reduced (R172, R173), hence `Nat`. -/
inductive HostOp where
  /-- R161 -/
  | reset
  /-- R162 -/
  | step
  /-- R163 -/
  | loadProgram (bytes : List Byte) (start : Addr)
  /-- R164 -/
  | getMemory (address : Addr)
  /-- R165 -/
  | setMemory (address : Addr) (value : Byte)
  /-- R166 -/
  | enableBankSwitching (b : Bool)
  /-- R167 -/
  | setBank (index : Nat)
  /-- R168 -/
  | getBank
  /-- R169 -/
  | getBankCount
  /-- R170 -/
  | getReg (r : Reg)
  /-- R170 -/
  | getPC
  /-- R170 -/
  | getSP
  /-- R170 -/
  | isHalted
  /-- R171 -/
  | getFlag (f : FlagName)
  /-- R172 -/
  | setReg (r : Reg) (v : Nat)
  /-- R172 -/
  | setPC (v : Nat)
  /-- R172 -/
  | setSP (v : Nat)
  /-- R172 -/
  | setFlag (f : FlagName) (b : Bool)
  /-- R173 -/
  | push16 (v : Nat)
  /-- R173 -/
  | pop16
deriving DecidableEq, Repr

/-- What an operation returns to the host. -/
inductive Reply where
  | done
  | byte (v : Byte)
  | word (v : Addr)
  | bit (b : Bool)
  | number (n : Nat)
  | rejected (r : HostReject)
deriving DecidableEq, Repr

/-- One host operation: its reply and the state after it. Only `step` can end otherwise than in a next state, and it does
not (R162, R175). -/
def hostOp (op : HostOp) (s : State) : Host.Outcome (Reply × State) Fault Refusal :=
  match op with
  | .reset => .next (.done, s.hostReset)
  | .step =>
    match step s with
    | .next t => .next (.done, t)
    | .fault r => .fault r
    | .refused r => .refused r
  | .loadProgram bytes start =>
    match s.loadProgram bytes start with
    | .ok t => .next (.done, t)
    | .error r => .next (.rejected r, s)
  | .getMemory address => .next (.byte (s.memRead address), s)
  | .setMemory address value => .next (.done, s.memWrite address value)
  | .enableBankSwitching b => .next (.done, s.setBankEn b)
  | .setBank index => .next (.done, s.hostSetBank index)
  | .getBank => .next (.number s.bank, s)
  | .getBankCount => .next (.number s.cfg.bankCount, s)
  | .getReg r => .next (.byte (s.getReg r), s)
  | .getPC => .next (.word s.pc, s)
  | .getSP => .next (.word s.sp, s)
  | .isHalted => .next (.bit s.halted, s)
  | .getFlag f => .next (.bit (s.flags.get f), s)
  | .setReg r v => .next (.done, s.setReg r (BitVec.ofNat 8 v))
  | .setPC v => .next (.done, s.setPC (BitVec.ofNat 16 v))
  | .setSP v => .next (.done, s.setSP (BitVec.ofNat 16 v))
  | .setFlag f b => .next (.done, s.setFlags (s.flags.set f b))
  | .push16 v => .next (.done, s.push16 (BitVec.ofNat 16 v))
  | .pop16 => .next (.word s.pop16.1, s.pop16.2)

end Sys2Proof.Machine
end

