-- ==== Sys2Proof/Safety.lean ====
section
/-! DEFINITION. The terms claims are stated in: the invariant of the block (10_state.md R40), the states it can reach, and
what a transition leaves unchanged. -/

namespace Sys2Proof.Machine

/-! ## The invariant -/

/-- Every listed cell exists (R36): `common` has a cell only outside WINDOW, `bankmem` only for an index below BANK_COUNT
and an offset below BANK_SIZE. -/
abbrev Memory.placed (m : Memory) (c : Config) : Prop :=
  (∀ x ∈ m.common, x.1 < 65536 ∧ (x.1 < c.bankBase ∨ c.bankBase + c.bankSize ≤ x.1))
    ∧ ∀ x ∈ m.bankmem, x.1 / 65536 < c.bankCount ∧ x.1 % 65536 < c.bankSize

/-- The invariant of every reachable state (R40, R35): a legal configuration, `0 <= bank < BANK_COUNT`, `inte = 0`, and
storage in canonical form with only cells that exist. -/
abbrev State.Inv (s : State) : Prop :=
  s.cfg.wf ∧ s.bank < s.cfg.bankCount ∧ s.inte = false ∧ s.mem.wf ∧ s.mem.placed s.cfg

/-- The states an instance built with the configuration `c` can be in: every host operation is a transition (R12, R160). -/
inductive Reachable (c : Config) : State → Prop where
  | built : Reachable c (State.resetWith c)
  | host {s t : State} {r : Reply} (op : HostOp) : Reachable c s → hostOp op s = .next (r, t) → Reachable c t

/-! ## Frames -/

/-- `sp`, `halted`, `inte`, `bank_en` and the configuration are as before. -/
def State.keepsControl (s t : State) : Prop :=
  t.sp = s.sp ∧ t.halted = s.halted ∧ t.inte = s.inte ∧ t.bankEn = s.bankEn ∧ t.cfg = s.cfg

/-- Every byte of memory is as before, in every bank, and every address reads as before. -/
def State.keepsMemory (s t : State) : Prop :=
  (∀ c : StoreCell, t.mem.readCell c = s.mem.readCell c) ∧ ∀ a : Addr, t.memRead a = s.memRead a

/-- The I/O interface is as before: nothing presented, nothing read. -/
def State.keepsIo (s t : State) : Prop := t.ioDraws = s.ioDraws ∧ t.ioWrites = s.ioWrites

/-- Everything but the registers, the flags and `pc` is as before. -/
def State.keepsRest (s t : State) : Prop :=
  s.keepsControl t ∧ t.bank = s.bank ∧ s.keepsMemory t ∧ s.keepsIo t

/-- Every register but `r` is as before. -/
def State.keepsRegsBut (s t : State) (r : Reg) : Prop := ∀ q, q ≠ r → t.getReg q = s.getReg q

/-! ## Flags -/

/-- `Z`, `S` and `P` are those of the 8-bit result `r`, in the words of 10_state.md R28. -/
def Flags.zspOf (f : Flags) (r : Byte) : Prop :=
  (f.z = true ↔ r.toNat = 0) ∧ (f.s = true ↔ 128 ≤ r.toNat) ∧
    (f.p = true ↔ (List.range 8).countP (fun k => r.getLsbD k) % 2 = 0)

/-! ## The opcode byte and the address operand at `pc` -/

/-- The byte the next fetch reads. -/
def State.opcode (s : State) : Byte := s.memRead s.pc

/-- The byte after it: an immediate or a port. -/
def State.operand8 (s : State) : Byte := s.memRead (s.pc + 1)

/-- The two bytes after it as an address, low byte first (R60, R85). -/
def State.operand16 (s : State) : Addr := joinBytes (s.memRead (s.pc + 2)) (s.memRead (s.pc + 1))

/-! ## Banks -/

/-- A sequence of writes, each under a bank of its own. -/
def State.writesUnderBanks (s : State) (ws : List (Nat × Addr × Byte)) : State :=
  ws.foldl (fun u w => (u.selectBank w.1).memWrite w.2.1 w.2.2) s

/-- The bank a window address names: the current one when switching is enabled, else bank 0 (R52). -/
def State.visibleBank (s : State) : Nat := if s.bankEn then s.bank else 0

/-- Two states that differ at most in the content of bank `k`. -/
def State.agreeOffBank (k : Nat) (s t : State) : Prop :=
  t = { s with mem := t.mem } ∧ ∀ c : StoreCell, (∀ o, c ≠ .bank k o) → t.mem.readCell c = s.mem.readCell c

end Sys2Proof.Machine
end

