-- ==== Sys2Proof/Certificates/Slice0/Obligations.lean ====
section
/-! DEFINITION. The statements for the provers, in the order of the spec's files. A statement that rests on a choice the
spec marks as its own names that decision (D<n> of 92_eei_decisions.md) in its docstring. -/

open Sys2Proof Sys2Proof.Machine

/-! ## Reset and the invariant (10_state.md, 48_host_operations.md, 70_reset_and_hazards.md) -/

/-- R161, R39: what `reset()` leaves, from any state and configuration, and that State.reset is such a state. The values of
`sp`, `bank`, `bank_en` and of the bank arrays are the spec's decision D11. That the model's own I/O fields are kept is the
model's choice (log entry 7). -/
def Obligations.ResetLeavesEveryStateAtItsValue : Prop :=
  (∀ s : State, ∃ t, hostOp .reset s = .next (.done, t) ∧ (∀ r, t.getReg r = 0) ∧ t.pc = 0x0000 ∧ t.sp = 0xFFFF ∧
    (∀ f, t.flags.get f = false) ∧ t.halted = false ∧ t.inte = false ∧ (∀ c, t.mem.readCell c = 0x00) ∧
    t.bank = 0 ∧ t.bankEn = false ∧ t.cfg = s.cfg ∧ s.keepsIo t ∧ hostOp .reset t = .next (.done, t)) ∧
  (∀ r, State.reset.getReg r = 0) ∧ State.reset.pc = 0x0000 ∧ State.reset.sp = 0xFFFF ∧
    (∀ f, State.reset.flags.get f = false) ∧ State.reset.halted = false ∧ State.reset.inte = false ∧
    (∀ a, State.reset.memRead a = 0x00) ∧ State.reset.bank = 0 ∧ State.reset.bankEn = false

/-- R201, R210: after reset, in every configuration, the first step executes the NOP at 0x0000; more generally, where
every address reads 0x00, a Running block executes NOP for ever. The spec's decisions: NOP's byte is D1 (log entry 4); that
reset clears the bank arrays too, on which the first clause rests where the window holds 0x0000, is D11 (log entries 10
and 15); that fetch is routed is D14 (log entry 9). -/
def Obligations.ClearedMemoryRunsNopForEver : Prop :=
  (∀ c : Config, step (State.resetWith c) = .next ((State.resetWith c).setPC 0x0001)) ∧
  ∀ (n : Nat) (s : State), s.halted = false → (∀ a, s.memRead a = 0x00) →
    Host.Core.run Sys2Proof.core n s = .next (s.setPC (s.pc + BitVec.ofNat 16 n))

/-- R40: the reset state has the invariant, whatever the (legal) configuration. -/
def Obligations.ResetStateHasTheInvariant : Prop :=
  State.reset.Inv ∧ ∀ c : Config, c.wf → (State.resetWith c).Inv

/-- R40: every step keeps the invariant: a legal bank index, `inte = 0`, storage in canonical form with only cells that
exist. -/
def Obligations.StepKeepsTheInvariant : Prop :=
  ∀ s t : State, s.Inv → step s = .next t → t.Inv

/-- R40, R12: so every state an instance reaches has the invariant and the configuration the instance was built with:
HostOperationsKeepTheInvariant, along a run. That an instance starts in the reset state is the spec's decision D11 (log
entry 10). -/
def Obligations.ReachableStatesHaveTheInvariant : Prop :=
  ∀ (c : Config) (s : State), c.wf → Reachable c s → s.Inv ∧ s.cfg = c

/-! ## Rules about the whole machine (10_state.md) -/

/-- R26: `pc` after a step, wrapping modulo 65536. The spec's decisions: the opcode bytes and lengths are D1, D3 and D25,
the one-byte no-op D4, the operand byte of OUT and IN D26 (log entries 4 and 11), the low byte first in JMP's operand D13
(log entry 4), `pc` after HLT D20 (log entry 12), the routing of the fetch D14 (log entry 9). -/
def Obligations.StepLeavesPcPastTheInstruction : Prop :=
  ∀ s t : State, step s = .next t →
    (s.halted = true → t.pc = s.pc) ∧
    (s.halted = false → t.pc =
      if s.opcode = 0xC3 then s.operand16
      else if s.opcode ∈ ([0x32, 0x3A] : List Byte) then s.pc + 3
      else if s.opcode ∈ ([0x06, 0x0E, 0x16, 0x1E, 0x26, 0x2E, 0x3E, 0xD3, 0xDB] : List Byte) then s.pc + 2
      else s.pc + 1)

/-- R27: no instruction writes or reads `sp`; of the host operations only reset, the stack primitives and the setter write
it; the primitives move it by two, modulo 65536. -/
def Obligations.OnlyResetStackPrimitivesAndSetterMoveSp : Prop :=
  (∀ s t : State, step s = .next t → t.sp = s.sp ∧ ∀ v, step (s.setSP v) = .next (t.setSP v)) ∧
  (∀ (op : HostOp) (s t : State) (r : Reply), hostOp op s = .next (r, t) → op ≠ .reset → op ≠ .pop16 →
    (∀ v, op ≠ .push16 v) → (∀ v, op ≠ .setSP v) → t.sp = s.sp) ∧
  ∀ (s : State) (v : Addr),
    (s.push16 v).sp.toNat = (s.sp.toNat + 65534) % 65536 ∧ s.pop16.2.sp.toNat = (s.sp.toNat + 2) % 65536

/-- R29, R30: a step whose opcode is not ADD, ADC, SUB, SBB, INR or DCR leaves the flags, and INR and DCR leave `CY`. The
opcode bytes are the spec's decision D1, the routing of the opcode fetch D14 (log entry 9). -/
def Obligations.OnlyArithmeticAndIncDecWriteFlags : Prop :=
  ∀ s t : State, s.halted = false → step s = .next t →
    (¬ (0x80 ≤ s.opcode.toNat ∧ s.opcode.toNat < 0xA0 ∧ s.opcode.toNat % 8 ≠ 6) →
      ¬ (s.opcode.toNat < 0x40 ∧ (s.opcode.toNat % 8 = 4 ∨ s.opcode.toNat % 8 = 5) ∧ s.opcode.toNat / 8 ≠ 6) →
      t.flags = s.flags) ∧
    (s.opcode.toNat < 0x40 → t.flags.cy = s.flags.cy)

/-- R29: no instruction reads `S`, `Z`, `AC` or `P`. Every instruction is of one of two kinds, in all states: one that
writes flags leaves the very same state whatever those four were before it (an instruction may read or keep `CY`, so that
one is given); one that does not leaves the same state but for the flags, whatever all five were, and carries them over.That
INR and DCR are of the first kind rests on their writing `AC`, the spec's decision D6 (log entry 8). -/
def Obligations.NoInstructionReadsFlagsOtherThanCarry : Prop :=
  ∀ i : Instr,
    (∀ (s : State) (f : Flags), f.cy = s.flags.cy → ∃ t, exec i s = .next t ∧ exec i (s.setFlags f) = .next t) ∨
    (∀ (s : State) (f : Flags), ∃ t, exec i s = .next t ∧ t.flags = s.flags ∧
      exec i (s.setFlags f) = .next (t.setFlags f))

/-- R33, R34, R35, R38: no instruction writes `bank_en`, `inte` or the parameters, and only OUT to port 0xFF writes `bank`,
with `A mod BANK_COUNT`, whatever `bank_en` is. The spec's decisions: the byte of OUT D1 and its operand form D26, the
reduction D8, the independence of `bank_en` D9, the inert `inte` D16, the routing of the fetch D14. -/
def Obligations.StepsWriteNoControlStateButTheBank : Prop :=
  ∀ s t : State, step s = .next t → t.bankEn = s.bankEn ∧ t.inte = s.inte ∧ t.cfg = s.cfg ∧
    t.bank = if s.halted = false ∧ s.opcode = 0xD3 ∧ s.operand8 = 0xFF then (s.getReg .a).toNat % s.cfg.bankCount
      else s.bank

/-! ## The banked memory controller (20_memory.md) -/

/-- R52, R53: which cell an address names; that a disabled window names bank 0 is the spec's decision D7. -/
def Obligations.RoutingSelectsTheCell : Prop :=
  ∀ (s : State) (a : Addr),
    (s.cfg.bankBase ≤ a.toNat ∧ a.toNat < s.cfg.bankBase + s.cfg.bankSize →
      s.memRead a = s.mem.readCell (.bank (if s.bankEn then s.bank else 0) (BitVec.ofNat 16 (a.toNat - s.cfg.bankBase)))) ∧
    (a.toNat < s.cfg.bankBase ∨ s.cfg.bankBase + s.cfg.bankSize ≤ a.toNat →
      s.memRead a = s.mem.readCell (.common a))

/-- R54: a write stores the byte in the cell `Route(addr)` and changes no other cell and no other state. -/
def Obligations.MemWriteChangesOneCell : Prop :=
  ∀ (s : State) (a : Addr) (v : Byte), s.mem.wf →
    (s.memWrite a v).mem.readCell (s.route a) = v ∧
    (∀ c, c ≠ s.route a → (s.memWrite a v).mem.readCell c = s.mem.readCell c) ∧
    (∀ b, (s.memWrite a v).memRead b = if b = a then v else s.memRead b) ∧
    s.memWrite a v = { s with mem := (s.memWrite a v).mem } ∧ (s.memWrite a v).mem.wf

/-- R55: isolation of the banks. A byte written to a window address under bank `K` is invisible under every other bank,
survives any sequence of writes made under other banks, and a byte written outside the window is visible under every bank
and both values of `bank_en`. -/
def Obligations.BanksAreIsolated : Prop :=
  ∀ (s : State) (K : Nat) (a : Addr) (v : Byte), s.mem.wf →
    (s.bankEn = true → inWindow s.cfg a = true →
      (∀ J, J ≠ K → ∀ b, (((s.selectBank K).memWrite a v).selectBank J).memRead b = (s.selectBank J).memRead b) ∧
      ∀ ws : List (Nat × Addr × Byte), (∀ w ∈ ws, w.1 ≠ K) →
        ((((s.selectBank K).memWrite a v).writesUnderBanks ws).selectBank K).memRead a = v) ∧
    (inWindow s.cfg a = false → ∀ J e, (((s.memWrite a v).selectBank J).setBankEn e).memRead a = v)

/-- R55, R40 ("never be observable when the current bank is J"): a step cannot learn what a bank it does not see holds. Two
states that differ only in the content of a bank other than the visible one step to two states that differ only there. -/
def Obligations.HiddenBankNeverInfluencesAStep : Prop :=
  ∀ (k : Nat) (s t s' : State), s.mem.wf → t.mem.wf → s.agreeOffBank k t → k ≠ s.visibleBank → step s = .next s' →
    ∃ t', step t = .next t' ∧ s'.agreeOffBank k t'

/-- R56, R166: changing `bank` or `bank_en`, by the host or by OUT, copies and clears nothing; a byte written to the window
while switching is disabled is found in bank 0 after enabling (the spec's decision D7). -/
def Obligations.BankControlCopiesNothing : Prop :=
  ∀ s : State,
    (∀ n, ∃ t, hostOp (.setBank n) s = .next (.done, t) ∧ t.mem = s.mem) ∧
    (∀ b, ∃ t, hostOp (.enableBankSwitching b) s = .next (.done, t) ∧ t = { s with bankEn := b }) ∧
    (∃ t, exec (.outPort 0xFF) s = .next t ∧ t.mem = s.mem) ∧
    ∀ (a : Addr) (v : Byte), s.mem.wf → s.bankEn = false → inWindow s.cfg a = true →
      (((s.memWrite a v).setBankEn true).selectBank 0).memRead a = v

/-- R67: of all instructions only STA writes memory, and only the cell its operand names. STA's byte is the spec's decision
D1, the routing of the fetch D14 (log entry 9). -/
def Obligations.OnlyStaWritesMemory : Prop :=
  ∀ s t : State, s.mem.wf → s.halted = false → step s = .next t →
    ∀ c, (s.opcode = 0x32 → c ≠ s.route s.operand16) → t.mem.readCell c = s.mem.readCell c

/-- R66, R113: a stored byte is what the next fetch from that address reads, with nothing in between, and the store
does not affect the STA that makes it. That instruction fetch is routed like data is the spec's decision D14 (R57; log entry
9), STA's byte D1. -/
def Obligations.StoredByteIsFetchedNext : Prop :=
  ∀ s : State, s.mem.wf → s.halted = false → s.opcode = 0x32 →
    ∃ t, step s = .next t ∧ t.pc = s.pc + 3 ∧ t.memRead s.operand16 = s.getReg .a ∧
      (s.operand16 = s.pc + 3 → t.fetch8.1 = s.getReg .a)

/-! ## Encoding (30_encoding.md) -/

/-- R82, R88: decoding the bytes of a well-formed instruction gives it back, with every operand at every value, and the
bytes after it. The bytes are the spec's decision D1. -/
def Obligations.DecodeOfEncodeIsTheInstruction : Prop :=
  ∀ (i : Instr) (rest : List Byte), i.wf = true → decode (encode i ++ rest) = .ok (i, rest)

/-- R80, R88: the other direction: what the decoder accepts is the encoding of the well-formed instruction it answers. The
bytes are the spec's decision D1. -/
def Obligations.EncodeOfDecodeIsTheBytes : Prop :=
  ∀ (bs rest : List Byte) (i : Instr), decode bs = .ok (i, rest) → i.wf = true ∧ encode i ++ rest = bs

/-- R92 and R88: the six bytes of the source's scenario, and one word of each further family, written out. The bytes of the
second group are the spec's decision D1. -/
def Obligations.SampleWordsDecodeAsWritten : Prop :=
  decode [0x3E, 0x05, 0x06, 0x03, 0x80, 0x76] = .ok (.mviA 0x05, [0x06, 0x03, 0x80, 0x76]) ∧
  decode [0x06, 0x03, 0x80, 0x76] = .ok (.mviB 0x03, [0x80, 0x76]) ∧
  decode [0x80, 0x76] = .ok (.addB, [0x76]) ∧ decode [0x76] = .ok (.hlt, []) ∧
  decode [0x00] = .ok (.nop, []) ∧ decode [0x47] = .ok (.movBA, []) ∧ decode [0x6C] = .ok (.movLH, []) ∧
  decode [0x3A, 0x34, 0x12] = .ok (.lda 0x1234, []) ∧ decode [0x32, 0x00, 0x80] = .ok (.sta 0x8000, []) ∧
  decode [0x8D] = .ok (.adcL, []) ∧ decode [0x92] = .ok (.subD, []) ∧ decode [0x9C] = .ok (.sbbH, []) ∧
  decode [0x1C] = .ok (.inrE, []) ∧ decode [0x0D] = .ok (.dcrC, []) ∧ decode [0xC3, 0x06, 0x00] = .ok (.jmp 0x0006, []) ∧
  decode [0xD3, 0xFF] = .ok (.outPort 0xFF, []) ∧ decode [0xDB, 0x10] = .ok (.inPort 0x10, []) ∧
  decode [0xCD] = .ok (.unrecognized 0xCD, [])

/-- R89, R83: a byte decodes as unrecognized exactly when it is in R89's ranges, and there are 151 of them. Which bytes
they are is the spec's decisions D1, D3, D25. -/
def Obligations.UnrecognizedBytesAreTheListedOnes : Prop :=
  (∀ (op : Byte) (rest : List Byte), decode (op :: rest) = .ok (.unrecognized op, rest) ↔
    ∃ r ∈ unrecognizedRanges, r.1 ≤ op.toNat ∧ op.toNat ≤ r.2) ∧
  ((List.range 256).filter fun n => isUnrecognized (BitVec.ofNat 8 n)).length = 151

/-- R86, R81: the opcode byte alone decides how many bytes an instruction has. The bytes are the spec's decision D1. -/
def Obligations.OpcodeByteDecidesTheLength : Prop :=
  ∀ (op : Byte) (rest tail : List Byte) (i : Instr), decode (op :: rest) = .ok (i, tail) →
    rest.length + 1 = tail.length +
      (if op ∈ ([0x32, 0x3A, 0xC3] : List Byte) then 3
       else if op ∈ ([0x06, 0x0E, 0x16, 0x1E, 0x26, 0x2E, 0x3E, 0xD3, 0xDB] : List Byte) then 2 else 1)

/-- R81: a list of bytes that ends before the operands of its opcode is rejected by name (the model's own boundary, log
entry 16: a machine always has a next byte), and every other list is accepted. The lengths are the spec's decision D1. -/
def Obligations.DecoderRejectsOnlyListsThatEndTooSoon : Prop :=
  decode [] = .error .noOpcode ∧
  ∀ (op : Byte) (rest : List Byte),
    (rest.length + 1 < opcodeLength op → decode (op :: rest) = .error (.noOperand op)) ∧
    (opcodeLength op ≤ rest.length + 1 → ∃ i tail, decode (op :: rest) = .ok (i, tail))

/-- R84: `Fetch8`: the byte at `pc` through the controller, and `pc` incremented modulo 65536; nothing else changes. The
opcode and the operand bytes are fetched so: after an instruction's fetch `pc` addresses the byte after it. That instruction
fetch goes through the bank routing is the spec's decision D14 (R57; log entry 9), the bytes and lengths are D1. -/
def Obligations.FetchEightReadsAtPcAndIncrements : Prop :=
  ∀ s : State, s.fetch8.1 = s.mem.readCell (s.route s.pc) ∧ s.fetch8.2 = { s with pc := s.pc + 1 } ∧
    s.fetch8.2.pc.toNat = (s.pc.toNat + 1) % 65536 ∧
    (∃ rest, decode [s.memRead s.pc, s.memRead (s.pc + 1), s.memRead (s.pc + 2)] = .ok (s.fetchInstr.1, rest)) ∧
    s.fetchInstr.2 = s.setPC (s.pc + BitVec.ofNat 16 (encode s.fetchInstr.1).length)

/-- R85, R60: `Fetch16`: the low byte first. For JMP the order is the spec's decision D13; that the fetch is routed is D14. -/
def Obligations.FetchSixteenIsLittleEndian : Prop :=
  ∀ s : State, s.fetch16.1.toNat = (s.memRead (s.pc + 1)).toNat * 256 + (s.memRead s.pc).toNat ∧
    s.fetch16.2 = { s with pc := s.pc + 2 }

/-! ## The step (40_step_and_control.md, 60_exceptions.md) -/

/-- R100: `Step`: nothing while Halted; otherwise the opcode byte is fetched at `pc` and the effect of its row of the table
executes, with the row's operand bytes fetched from the addresses after it; the step answers a next state. The spec's
decisions: the low byte first in JMP's operand is D13 (log entry 4), the routing of the fetch D14 (log entry 9), the three
formats and the table's rows D1. -/
def Obligations.StepIsFetchDecodeExecute : Prop :=
  ∀ s : State, (∃ t, step s = .next t) ∧ (s.halted = true → step s = .next s) ∧
    (s.halted = false →
      (∀ i, dispatchTable (s.memRead s.pc) = .f1 i → step s = exec i (s.setPC (s.pc + 1))) ∧
      (∀ form, dispatchTable (s.memRead s.pc) = .f2 form → step s = exec (form (s.memRead (s.pc + 1))) (s.setPC (s.pc + 2))) ∧
      ∀ form, dispatchTable (s.memRead s.pc) = .f3 form →
        step s = exec (form (joinBytes (s.memRead (s.pc + 2)) (s.memRead (s.pc + 1)))) (s.setPC (s.pc + 3)))

/-- R100, R101, R84: a step runs the decoded instruction: where the bytes at `pc` decode to `i`, the step is `exec i` with
`pc` already moved past the bytes of `i`. The bytes are the spec's decision D1, the routing of the fetch D14. -/
def Obligations.StepRunsTheDecodedInstruction : Prop :=
  ∀ (s : State) (i : Instr) (rest : List Byte), s.halted = false →
    decode [s.memRead s.pc, s.memRead (s.pc + 1), s.memRead (s.pc + 2)] = .ok (i, rest) →
    step s = exec i (s.setPC (s.pc + BitVec.ofNat 16 (encode i).length))

/-- R180, R101, R175: no instruction raises an exception and no host operation stops the block: each answers a next
state. -/
def Obligations.EveryInstructionAndHostOperationCompletes : Prop :=
  (∀ (i : Instr) (s : State), ∃ t, exec i s = .next t) ∧
  ∀ (op : HostOp) (s : State), ∃ r t, hostOp op s = .next (r, t)

/-- R104: halt idempotence: any number of steps of a Halted block change nothing, and only reset returns it to Running.
That the other host operations keep working is the spec's decision D15. -/
def Obligations.HaltedIsTerminalUntilReset : Prop :=
  ∀ s : State, s.halted = true →
    (∀ n, Host.Core.run Sys2Proof.core n s = .next s) ∧
    (∀ op, op ≠ .reset → ∃ r t, hostOp op s = .next (r, t) ∧ t.halted = true) ∧
    ∃ t, hostOp .reset s = .next (.done, t) ∧ t.halted = false

/-- R193: the two execution states and every transition between them: a Running block halts exactly on a step that
executes 0x76 (HLT), keeping everything with `pc` past the byte; a Halted one keeps everything under `step`, stays Halted
under every other host operation, and runs again only after reset, from which nothing survives. The spec's decisions: `pc`
after HLT is D20 (log entry 12), that loadProgram and the other operations leave `halted` D15 (log entry 13), the reset
state D11 (log entry 10), the routing of the opcode fetch D14 (log entry 9). That reset keeps the model's own I/O fields is
the model's choice (log entry 7). -/
def Obligations.RunningAndHaltedTransitions : Prop :=
  (∀ s t : State, s.halted = false → step s = .next t → (t.halted = true ↔ s.opcode = 0x76)) ∧
  (∀ s : State, s.halted = false → s.opcode = 0x76 → step s = .next { s with halted := true, pc := s.pc + 1 }) ∧
  (∀ s : State, s.halted = true → step s = .next s) ∧
  (∀ (op : HostOp) (s t : State) (r : Reply), op ≠ .reset → op ≠ .step → hostOp op s = .next (r, t) →
    t.halted = s.halted) ∧
  ∀ s : State, ∃ u, hostOp .reset s = .next (.done, u) ∧ u.halted = false ∧
    u = { State.resetWith s.cfg with ioDraws := u.ioDraws, ioWrites := u.ioWrites }

/-- R102, R103, R105: NOP and every unrecognized opcode change nothing beyond `pc`, which the step moves by one; HLT sets
`halted` and nothing else, `pc` staying past its byte. The bytes are the spec's decisions D1, D3 and D25, the silent no-op
D4, `pc` after HLT D20, the routing of the opcode fetch D14. -/
def Obligations.NopHltAndUnrecognizedEffects : Prop :=
  (∀ s : State, exec .nop s = .next s) ∧ (∀ (op : Byte) (s : State), exec (.unrecognized op) s = .next s) ∧
  (∀ s : State, exec .hlt s = .next { s with halted := true }) ∧
  ∀ s : State, s.halted = false →
    (s.opcode = 0x00 → step s = .next { s with pc := s.pc + 1 }) ∧
    ((∃ r ∈ unrecognizedRanges, r.1 ≤ s.opcode.toNat ∧ s.opcode.toNat ≤ r.2) → step s = .next { s with pc := s.pc + 1 }) ∧
    (s.opcode = 0x76 → step s = .next { s with pc := s.pc + 1, halted := true })

/-! ## Data transfer (41_data_transfer.md) -/

/-- R110: MOV r1,r2, all 49 forms: the destination takes the source's value, nothing else changes; an identity move changes
nothing. Bytes and codes are the spec's decisions D1 and D2. -/
def Obligations.MovCopiesTheSourceRegister : Prop :=
  ∀ (r1 r2 : Reg) (s : State), encode (movInstr r1 r2) = [BitVec.ofNat 8 (0x40 + 8 * r1.code + r2.code)] ∧
    ∃ t, exec (movInstr r1 r2) s = .next t ∧ t.getReg r1 = s.getReg r2 ∧ s.keepsRegsBut t r1 ∧ t.flags = s.flags ∧
      t.pc = s.pc ∧ s.keepsRest t ∧ (r1 = r2 → t = s)

/-- R111: MVI r,d8, all seven forms and every immediate. Bytes are the spec's decision D1, the register set D21. -/
def Obligations.MviLoadsTheImmediate : Prop :=
  ∀ (r : Reg) (v : Byte) (s : State), encode (mviInstr r v) = [BitVec.ofNat 8 (0x06 + 8 * r.code), v] ∧
    ∃ t, exec (mviInstr r v) s = .next t ∧ t.getReg r = v ∧ s.keepsRegsBut t r ∧ t.flags = s.flags ∧
      t.pc = s.pc ∧ s.keepsRest t

/-- R112: LDA: `A` takes the byte the controller returns for the address under the current routing. The byte is the spec's
decision D1. -/
def Obligations.LdaLoadsThroughTheController : Prop :=
  ∀ (a : Addr) (s : State), encode (.lda a) = [0x3A, loByte a, hiByte a] ∧
    ∃ t, exec (.lda a) s = .next t ∧ t.getReg .a = s.mem.readCell (s.route a) ∧ s.keepsRegsBut t .a ∧
      t.flags = s.flags ∧ t.pc = s.pc ∧ s.keepsRest t

/-- R113: STA: the cell `Route(addr)` takes `A`; every other cell of every bank and every other address reads as before. The
byte is the spec's decision D1. -/
def Obligations.StaStoresOneByteThroughTheController : Prop :=
  ∀ (a : Addr) (s : State), s.mem.wf → encode (.sta a) = [0x32, loByte a, hiByte a] ∧
    ∃ t, exec (.sta a) s = .next t ∧ t.mem.readCell (s.route a) = s.getReg .a ∧ t.memRead a = s.getReg .a ∧
      (∀ c, c ≠ s.route a → t.mem.readCell c = s.mem.readCell c) ∧ (∀ b, b ≠ a → t.memRead b = s.memRead b) ∧
      t.regs = s.regs ∧ t.flags = s.flags ∧ t.pc = s.pc ∧ s.keepsControl t ∧ t.bank = s.bank ∧ s.keepsIo t

/-! ## Flags and arithmetic (42_arithmetic.md) -/

/-- R120: `SetZSP` writes `Z`, `S`, `P` from the result and never `CY` or `AC`. -/
def Obligations.SetZspWritesThreeFlagsFromTheResult : Prop :=
  ∀ (f : Flags) (r : Byte), (setZSP f r).zspOf r ∧ (setZSP f r).s = r.getLsbD 7 ∧
    (setZSP f r).cy = f.cy ∧ (setZSP f r).ac = f.ac

/-- R121: `AddCore`: the sum modulo 256, `CY` the carry out of bit 7, `AC` the carry out of bit 3, the incoming carry in
both, and `Z`, `S`, `P` of the result. -/
def Obligations.AdderComputesSumAndFiveFlags : Prop :=
  ∀ (a b : Byte) (cin : Bool),
    (addCore a b cin).1.toNat = (a.toNat + b.toNat + cin.toNat) % 256 ∧
    ((addCore a b cin).2.cy = true ↔ a.toNat + b.toNat + cin.toNat > 255) ∧
    ((addCore a b cin).2.ac = true ↔ a.toNat % 16 + b.toNat % 16 + cin.toNat > 15) ∧
    (addCore a b cin).2.zspOf (addCore a b cin).1

/-- R122: `SubCore`: the difference modulo 256, `CY` the borrow, `AC` the borrow out of the low nibble (the spec's decision
D5), and `Z`, `S`, `P` of the result. -/
def Obligations.SubtractorComputesDifferenceAndFiveFlags : Prop :=
  ∀ (a b : Byte) (bin : Bool),
    ((subCore a b bin).1.toNat : Int) = ((a.toNat : Int) - b.toNat - bin.toNat) % 256 ∧
    ((subCore a b bin).2.cy = true ↔ a.toNat < b.toNat + bin.toNat) ∧
    ((subCore a b bin).2.ac = true ↔ a.toNat % 16 < b.toNat % 16 + bin.toNat) ∧
    (subCore a b bin).2.zspOf (subCore a b bin).1

/-- R127: the two identities, and that they make a two-byte sum and difference through ADC and SBB exact. -/
def Obligations.CarryAndBorrowMakeTheResultExact : Prop :=
  (∀ (a b : Byte) (c : Bool),
    256 * (addCore a b c).2.cy.toNat + (addCore a b c).1.toNat = a.toNat + b.toNat + c.toNat ∧
    ((subCore a b c).1.toNat : Int) - 256 * (subCore a b c).2.cy.toNat = (a.toNat : Int) - b.toNat - c.toNat) ∧
  ∀ x y : Addr,
    joinBytes (addCore (hiByte x) (hiByte y) (addCore (loByte x) (loByte y) false).2.cy).1
      (addCore (loByte x) (loByte y) false).1 = x + y ∧
    joinBytes (subCore (hiByte x) (hiByte y) (subCore (loByte x) (loByte y) false).2.cy).1
      (subCore (loByte x) (loByte y) false).1 = x - y

/-- R123, R121: ADD r, all seven forms (`ADD A` doubles): `A` takes the sum, all five flags are written, nothing else
changes. Bytes are the spec's decision D1. -/
def Obligations.AddWritesSumAndFiveFlags : Prop :=
  ∀ (r : Reg) (s : State), encode (addInstr r) = [BitVec.ofNat 8 (0x80 + r.code)] ∧
    ∃ t, exec (addInstr r) s = .next t ∧
      (t.getReg .a).toNat = ((s.getReg .a).toNat + (s.getReg r).toNat) % 256 ∧
      (t.flags.cy = true ↔ (s.getReg .a).toNat + (s.getReg r).toNat > 255) ∧
      (t.flags.ac = true ↔ (s.getReg .a).toNat % 16 + (s.getReg r).toNat % 16 > 15) ∧
      t.flags.zspOf (t.getReg .a) ∧ s.keepsRegsBut t .a ∧ t.pc = s.pc ∧ s.keepsRest t

/-- R124, R121: ADC r, all seven forms: the old `CY` takes part in the sum, in `CY` and in `AC`. Bytes are the spec's
decision D1. -/
def Obligations.AdcAddsTheIncomingCarry : Prop :=
  ∀ (r : Reg) (s : State), encode (adcInstr r) = [BitVec.ofNat 8 (0x88 + r.code)] ∧
    ∃ t, exec (adcInstr r) s = .next t ∧
      (t.getReg .a).toNat = ((s.getReg .a).toNat + (s.getReg r).toNat + s.flags.cy.toNat) % 256 ∧
      (t.flags.cy = true ↔ (s.getReg .a).toNat + (s.getReg r).toNat + s.flags.cy.toNat > 255) ∧
      (t.flags.ac = true ↔ (s.getReg .a).toNat % 16 + (s.getReg r).toNat % 16 + s.flags.cy.toNat > 15) ∧
      t.flags.zspOf (t.getReg .a) ∧ s.keepsRegsBut t .a ∧ t.pc = s.pc ∧ s.keepsRest t

/-- R125, R122: SUB r, all seven forms: `CY` is the borrow, `AC` the nibble borrow (the spec's decision D5). Bytes are D1. -/
def Obligations.SubWritesDifferenceAndFiveFlags : Prop :=
  ∀ (r : Reg) (s : State), encode (subInstr r) = [BitVec.ofNat 8 (0x90 + r.code)] ∧
    ∃ t, exec (subInstr r) s = .next t ∧
      ((t.getReg .a).toNat : Int) = (((s.getReg .a).toNat : Int) - (s.getReg r).toNat) % 256 ∧
      (t.flags.cy = true ↔ (s.getReg .a).toNat < (s.getReg r).toNat) ∧
      (t.flags.ac = true ↔ (s.getReg .a).toNat % 16 < (s.getReg r).toNat % 16) ∧
      t.flags.zspOf (t.getReg .a) ∧ s.keepsRegsBut t .a ∧ t.pc = s.pc ∧ s.keepsRest t

/-- R126, R122: SBB r, all seven forms: the old `CY` is the incoming borrow, in the true difference; `AC` is the spec's
decision D5, the bytes D1. -/
def Obligations.SbbSubtractsTheIncomingBorrow : Prop :=
  ∀ (r : Reg) (s : State), encode (sbbInstr r) = [BitVec.ofNat 8 (0x98 + r.code)] ∧
    ∃ t, exec (sbbInstr r) s = .next t ∧
      ((t.getReg .a).toNat : Int) = (((s.getReg .a).toNat : Int) - (s.getReg r).toNat - s.flags.cy.toNat) % 256 ∧
      (t.flags.cy = true ↔ (s.getReg .a).toNat < (s.getReg r).toNat + s.flags.cy.toNat) ∧
      (t.flags.ac = true ↔ (s.getReg .a).toNat % 16 < (s.getReg r).toNat % 16 + s.flags.cy.toNat) ∧
      t.flags.zspOf (t.getReg .a) ∧ s.keepsRegsBut t .a ∧ t.pc = s.pc ∧ s.keepsRest t

/-! ## Increment and decrement (43_inr_dcr.md) -/

/-- R130: INR r, all seven forms: plus one modulo 256, `CY` kept. The spec's decisions: the bytes D1, the seven registers
D21 (log entry 4), that `AC` is written D6 (log entry 8). -/
def Obligations.InrIncrementsAndKeepsCarry : Prop :=
  ∀ (r : Reg) (s : State), encode (inrInstr r) = [BitVec.ofNat 8 (0x04 + 8 * r.code)] ∧
    ∃ t, exec (inrInstr r) s = .next t ∧ (t.getReg r).toNat = ((s.getReg r).toNat + 1) % 256 ∧
      (t.flags.ac = true ↔ (s.getReg r).toNat % 16 = 15) ∧ t.flags.cy = s.flags.cy ∧
      t.flags.zspOf (t.getReg r) ∧ s.keepsRegsBut t r ∧ t.pc = s.pc ∧ s.keepsRest t

/-- R131: DCR r, all seven forms: minus one modulo 256, `CY` kept. The spec's decisions: the bytes D1, the seven registers
D21 (log entry 4), that `AC` is written D6, as the nibble borrow D5 (log entry 8). -/
def Obligations.DcrDecrementsAndKeepsCarry : Prop :=
  ∀ (r : Reg) (s : State), encode (dcrInstr r) = [BitVec.ofNat 8 (0x05 + 8 * r.code)] ∧
    ∃ t, exec (dcrInstr r) s = .next t ∧ (t.getReg r).toNat = ((s.getReg r).toNat + 255) % 256 ∧
      (t.flags.ac = true ↔ (s.getReg r).toNat % 16 = 0) ∧ t.flags.cy = s.flags.cy ∧
      t.flags.zspOf (t.getReg r) ∧ s.keepsRegsBut t r ∧ t.pc = s.pc ∧ s.keepsRest t

/-! ## Jump and I/O (44_jump.md, 45_io.md) -/

/-- R135: JMP: `pc` takes the 16-bit operand and nothing else changes. The byte is the spec's decision D1, the operand's
order D13. -/
def Obligations.JmpSetsPcToItsOperand : Prop :=
  ∀ (a : Addr) (s : State), encode (.jmp a) = [0xC3, loByte a, hiByte a] ∧ exec (.jmp a) s = .next { s with pc := a }

/-- R140: OUT to port 0xFF: `bank <- A mod BANK_COUNT`, whatever `bank_en` is, nothing else changes, and with switching
enabled every window address is routed by the new bank from then on. The spec's decisions: the reduction D8, the
independence of `bank_en` D9 (log entry 9), the byte D1, the operand form D26 (log entry 4). -/
def Obligations.OutToPortFFSelectsTheBank : Prop :=
  ∀ s : State, encode (.outPort 0xFF) = [0xD3, 0xFF] ∧
    ∃ t, exec (.outPort 0xFF) s = .next t ∧ t.bank = (s.getReg .a).toNat % s.cfg.bankCount ∧ t.regs = s.regs ∧
      t.flags = s.flags ∧ t.pc = s.pc ∧ s.keepsControl t ∧ (∀ c, t.mem.readCell c = s.mem.readCell c) ∧ s.keepsIo t ∧
      ∀ a, s.bankEn = true → inWindow s.cfg a = true →
        t.memRead a = s.mem.readCell (.bank ((s.getReg .a).toNat % s.cfg.bankCount) (windowOffset s.cfg a))

/-- R142: OUT to any other port presents the pair (port, `A`) and changes no state of the block (the spec's decision D10;
the record of the pair is the model's own field, log entry 3). The byte is the spec's decision D1, the operand form D26 (log
entry 4). -/
def Obligations.OutToAnotherPortOnlyPresentsThePair : Prop :=
  ∀ (p : Byte) (s : State), p ≠ 0xFF → encode (.outPort p) = [0xD3, p] ∧
    ∃ t, exec (.outPort p) s = .next t ∧ t.ioWrites = (p, s.getReg .a) :: s.ioWrites ∧ t.ioDraws = s.ioDraws ∧
      t.regs = s.regs ∧ t.flags = s.flags ∧ t.pc = s.pc ∧ s.keepsControl t ∧ t.bank = s.bank ∧ s.keepsMemory t

/-- R141: IN from port 0xFF loads the bank index, zero-extended, whatever `bank_en` is. The spec's decisions: the
independence of `bank_en` D9, the width D23 (log entry 9), the byte D1, the operand form D26 (log entry 4). -/
def Obligations.InFromPortFFReadsTheBank : Prop :=
  ∀ s : State, s.cfg.wf → s.bank < s.cfg.bankCount → encode (.inPort 0xFF) = [0xDB, 0xFF] ∧
    ∃ t, exec (.inPort 0xFF) s = .next t ∧ (t.getReg .a).toNat = s.bank ∧ s.keepsRegsBut t .a ∧ t.flags = s.flags ∧
      t.pc = s.pc ∧ s.keepsRest t

/-- R143: IN from any other port loads a byte of the environment, under no law (the spec's decision D10); the value is the
free value of log entry 2, a fresh one at each reading, and nothing else changes. The statement holds for every value. The
byte of IN is the spec's decision D1, the operand form D26 (log entry 4). -/
def Obligations.InFromAnotherPortReadsAFreeByte : Prop :=
  ∀ (p : Byte) (s : State), p ≠ 0xFF → encode (.inPort p) = [0xDB, p] ∧
    ∃ t, exec (.inPort p) s = .next t ∧ t.getReg .a = Config.ioRead s.ioDraws p ∧ t.ioDraws = s.ioDraws + 1 ∧
      t.ioWrites = s.ioWrites ∧ s.keepsRegsBut t .a ∧ t.flags = s.flags ∧ t.pc = s.pc ∧ s.keepsControl t ∧
      t.bank = s.bank ∧ s.keepsMemory t

/-- R144, R141 ("output value K ... then input from the same port, must yield K"): the round trip through port 0xFF gives
`A mod BANK_COUNT`, which is `A` itself below BANK_COUNT, and the window then shows that bank. The spec's decisions: the
reduction D8, the independence of `bank_en` D9, the width on IN D23 (log entry 9). -/
def Obligations.BankPortRoundTrip : Prop :=
  ∀ s : State, s.cfg.wf → ∃ t u, exec (.outPort 0xFF) s = .next t ∧ exec (.inPort 0xFF) t = .next u ∧
    (u.getReg .a).toNat = (s.getReg .a).toNat % s.cfg.bankCount ∧
    ((s.getReg .a).toNat < s.cfg.bankCount → u.getReg .a = s.getReg .a ∧
      ∀ a, s.bankEn = true → inWindow s.cfg a = true →
        u.memRead a = s.mem.readCell (.bank (s.getReg .a).toNat (windowOffset s.cfg a)))

/-! ## The stack primitives (46_stack_primitives.md) -/

/-- R150: `Push16`: the high byte at `sp - 1`, the low byte at `sp - 2`, `sp` two less, all modulo 65536; nothing else
changes. -/
def Obligations.PushStoresHighByteAboveLowByte : Prop :=
  ∀ (s : State) (v : Addr), s.mem.wf →
    (s.push16 v).sp = s.sp - 2 ∧ ((s.push16 v).memRead (s.sp - 1)).toNat = v.toNat / 256 ∧
    ((s.push16 v).memRead (s.sp - 2)).toNat = v.toNat % 256 ∧
    (∀ c, c ≠ s.route (s.sp - 1) → c ≠ s.route (s.sp - 2) → (s.push16 v).mem.readCell c = s.mem.readCell c) ∧
    s.push16 v = { s with sp := (s.push16 v).sp, mem := (s.push16 v).mem } ∧ (s.push16 v).mem.wf

/-- R151: `Pop16`: the low byte at `sp`, the high byte at `sp + 1`, `sp` two more, all modulo 65536; memory and everything
else unchanged; a pop after a push returns the pushed value and restores `sp`. -/
def Obligations.PopReadsLowByteThenHighByte : Prop :=
  ∀ s : State, s.pop16.1.toNat = (s.memRead (s.sp + 1)).toNat * 256 + (s.memRead s.sp).toNat ∧
    s.pop16.2 = { s with sp := s.sp + 2 } ∧
    ∀ v : Addr, s.mem.wf → (s.push16 v).pop16.1 = v ∧ (s.push16 v).pop16.2.sp = s.sp

/-- R173, R150, R151 (source property S6): the host's push followed by its pop returns the pushed value, modulo 65536, and
restores `sp`. The host operations are the spec's decision D18. -/
def Obligations.PushThenPopReturnsTheValue : Prop :=
  ∀ (s : State) (n : Nat), s.mem.wf → ∃ t u, hostOp (.push16 n) s = .next (.done, t) ∧
    hostOp .pop16 t = .next (.word (BitVec.ofNat 16 n), u) ∧ u.sp = s.sp ∧ u = { s with mem := u.mem }

/-! ## Host operations (48_host_operations.md) -/

/-- R163: `loadProgram`: rejected whole, with no state change, exactly when it would pass 0xFFFF; otherwise every byte is
at its address, no other address or cell changes, `pc` is the start address, and nothing else changes. The details are the
spec's decision D15. -/
def Obligations.LoadProgramInstallsOrRejectsWhole : Prop :=
  ∀ (s : State) (bytes : List Byte) (start : Addr),
    (start.toNat + bytes.length > 65536 →
      hostOp (.loadProgram bytes start) s = .next (.rejected .programLoadOverflow, s)) ∧
    (start.toNat + bytes.length ≤ 65536 → s.mem.wf →
      ∃ t, hostOp (.loadProgram bytes start) s = .next (.done, t) ∧ t.pc = start ∧
        (∀ k (h : k < bytes.length), t.memRead (start + BitVec.ofNat 16 k) = bytes[k]) ∧
        (∀ a : Addr, (∀ k, k < bytes.length → a ≠ start + BitVec.ofNat 16 k) → t.memRead a = s.memRead a) ∧
        (∀ c, (∀ k, k < bytes.length → c ≠ s.route (start + BitVec.ofNat 16 k)) →
          t.mem.readCell c = s.mem.readCell c) ∧
        t = { s with pc := start, mem := t.mem })

/-- R164, R165: `getMemory` returns the routed byte and changes nothing; `setMemory` stores in the routed cell and changes
nothing else; neither fails. -/
def Obligations.HostMemoryAccessIsRouted : Prop :=
  ∀ (s : State) (a : Addr) (v : Byte), s.mem.wf →
    hostOp (.getMemory a) s = .next (.byte (s.mem.readCell (s.route a)), s) ∧
    ∃ t, hostOp (.setMemory a v) s = .next (.done, t) ∧ t.mem.readCell (s.route a) = v ∧
      (∀ c, c ≠ s.route a → t.mem.readCell c = s.mem.readCell c) ∧ t = { s with mem := t.mem }

/-- R167: `setBank` clamps an index of BANK_COUNT or more (the spec's decision D8), takes any other as it is, whatever
`bank_en` is (D9), and changes nothing else. -/
def Obligations.SetBankClampsTheIndex : Prop :=
  ∀ (s : State) (n : Nat),
    (n ≥ s.cfg.bankCount → hostOp (.setBank n) s = .next (.done, { s with bank := s.cfg.bankCount - 1 })) ∧
    (n < s.cfg.bankCount → hostOp (.setBank n) s = .next (.done, { s with bank := n }))

/-- R168, R169, R171: the accessors return the current value and change nothing; `getBank` returns the number that
IN 0xFF would load; no host operation, `step` and reset included, changes the parameters. The spec's decisions: that IN 0xFF
and getBank act whatever `bank_en` is, D9; that IN loads the index as a number, zero-extended, D23 (log entry 9). -/
def Obligations.AccessorsReturnTheValueAndChangeNothing : Prop :=
  ∀ s : State, hostOp .getBank s = .next (.number s.bank, s) ∧ hostOp .getBankCount s = .next (.number s.cfg.bankCount, s) ∧
    (s.cfg.wf → s.bank < s.cfg.bankCount → ∃ t, exec (.inPort 0xFF) s = .next t ∧ (t.getReg .a).toNat = s.bank) ∧
    hostOp (.getFlag .s) s = .next (.bit s.flags.s, s) ∧ hostOp (.getFlag .z) s = .next (.bit s.flags.z, s) ∧
    hostOp (.getFlag .ac) s = .next (.bit s.flags.ac, s) ∧ hostOp (.getFlag .p) s = .next (.bit s.flags.p, s) ∧
    hostOp (.getFlag .cy) s = .next (.bit s.flags.cy, s) ∧
    ∀ (op : HostOp) (r : Reply) (t : State), hostOp op s = .next (r, t) →
      t.cfg = s.cfg ∧ hostOp .getBankCount t = .next (.number s.cfg.bankCount, t)

/-- R170, R172: a debug setter writes exactly the named item, reduced to its width, and has no side effect; a register
getter returns the current value and changes nothing. The setters and `isHalted` are the spec's decision D19. -/
def Obligations.SettersWriteOneItemAndGettersReadIt : Prop :=
  ∀ s : State,
    (∀ r n, ∃ t, hostOp (.setReg r n) s = .next (.done, t) ∧ (t.getReg r).toNat = n % 256 ∧ s.keepsRegsBut t r ∧
      t = { s with regs := t.regs } ∧ hostOp (.getReg r) s = .next (.byte (s.getReg r), s)) ∧
    (∀ n, ∃ t, hostOp (.setPC n) s = .next (.done, t) ∧ t.pc.toNat = n % 65536 ∧ t = { s with pc := t.pc }) ∧
    (∀ n, ∃ t, hostOp (.setSP n) s = .next (.done, t) ∧ t.sp.toNat = n % 65536 ∧ t = { s with sp := t.sp }) ∧
    (∀ f b, ∃ t, hostOp (.setFlag f b) s = .next (.done, t) ∧ t.flags.get f = b ∧
      (∀ g, g ≠ f → t.flags.get g = s.flags.get g) ∧ t = { s with flags := t.flags }) ∧
    hostOp .getPC s = .next (.word s.pc, s) ∧ hostOp .getSP s = .next (.word s.sp, s) ∧
    hostOp .isHalted s = .next (.bit s.halted, s)

/-- R40, R12: every host operation, `step` and reset among them, keeps the invariant and the parameters, from every state
that has the invariant. What the operations write is the spec's decisions D8 (setBank clamps, OUT 0xFF reduces), D11 (the
reset state) and D15 (loadProgram); log entries 9, 10 and 13. -/
def Obligations.HostOperationsKeepTheInvariant : Prop :=
  ∀ (op : HostOp) (s t : State) (r : Reply), s.Inv → hostOp op s = .next (r, t) → t.Inv ∧ t.cfg = s.cfg
end

