-- ==== Sys2Proof/Laws/Decode.lean ====
section
/-! SUPPORT. The laws of the byte order and of the dispatch table's rows. -/

namespace Sys2Proof

@[simp] theorem joinBytes_toNat (hi lo : Byte) : (joinBytes hi lo).toNat = hi.toNat * 256 + lo.toNat := by
  have h1 := hi.isLt
  have h2 := lo.isLt
  simp only [joinBytes, BitVec.toNat_ofNat]
  omega

@[simp] theorem loByte_toNat (a : Addr) : (loByte a).toNat = a.toNat % 256 := by
  simp only [loByte, BitVec.toNat_ofNat]
  omega

@[simp] theorem hiByte_toNat (a : Addr) : (hiByte a).toNat = a.toNat / 256 := by
  have := a.isLt
  simp only [hiByte, BitVec.toNat_ofNat]
  omega

@[simp] theorem joinBytes_hiByte_loByte (a : Addr) : joinBytes (hiByte a) (loByte a) = a :=
  BitVec.eq_of_toNat_eq (by simp; omega)

@[simp] theorem hiByte_joinBytes (hi lo : Byte) : hiByte (joinBytes hi lo) = hi :=
  BitVec.eq_of_toNat_eq (by have := lo.isLt; simp; omega)

@[simp] theorem loByte_joinBytes (hi lo : Byte) : loByte (joinBytes hi lo) = lo :=
  BitVec.eq_of_toNat_eq (by have := lo.isLt; simp; omega)

@[simp] theorem Reg.ofCode_code (r : Reg) : Reg.ofCode r.code = some r := by
  cases r <;> rfl

theorem Reg.code_of_ofCode {n : Nat} {r : Reg} (h : Reg.ofCode n = some r) : r.code = n := by
  unfold Reg.ofCode at h
  split at h <;> cases h <;> rfl

/-- The row of an unrecognized byte. -/
theorem dispatchTable_unrecognized : ∀ op : Byte, isUnrecognized op = true →
    dispatchTable op = .f1 (.unrecognized op) := by
  have h : ∀ op : Byte, isUnrecognized op = true →
      (match dispatchTable op with | .f1 i => i == .unrecognized op | _ => false) = true := by decide
  intro op hop
  have := h op hop
  split at this
  · rename_i i hi
    rw [hi, eq_of_beq this]
  · cases this

/-- A row agrees with the encoder: its instructions are well-formed and encode to its byte and its operand bytes. -/
def TableEntry.agrees (op : Byte) : TableEntry → Prop
  | .f1 i => i.wf = true ∧ encode i = [op]
  | .f2 form => ∀ b, (form b).wf = true ∧ encode (form b) = [op, b]
  | .f3 form => ∀ a, (form a).wf = true ∧ encode (form a) = [op, loByte a, hiByte a]

/-- The bytes of the two-byte rows (R86). -/
theorem mem_of_f2 {op : Byte} {form : Byte → Instr} (h : dispatchTable op = .f2 form) :
    op ∈ ([0x06, 0x0E, 0x16, 0x1E, 0x26, 0x2E, 0x3E, 0xD3, 0xDB] : List Byte) := by
  have all : ∀ op : Byte, (match dispatchTable op with
      | .f2 _ => decide (op ∈ ([0x06, 0x0E, 0x16, 0x1E, 0x26, 0x2E, 0x3E, 0xD3, 0xDB] : List Byte))
      | _ => true) = true := by decide
  have := all op
  rw [h] at this
  simpa using this

/-- The bytes of the three-byte rows (R86). -/
theorem mem_of_f3 {op : Byte} {form : Addr → Instr} (h : dispatchTable op = .f3 form) :
    op ∈ ([0x32, 0x3A, 0xC3] : List Byte) := by
  have all : ∀ op : Byte, (match dispatchTable op with
      | .f3 _ => decide (op ∈ ([0x32, 0x3A, 0xC3] : List Byte))
      | _ => true) = true := by decide
  have := all op
  rw [h] at this
  simpa using this

/-- Every row agrees with the encoder. -/
theorem dispatchTable_agrees (op : Byte) : (dispatchTable op).agrees op := by
  cases h : dispatchTable op with
  | f1 i =>
    have all : ∀ op : Byte, (match dispatchTable op with
        | .f1 i => i.wf && (encode i == [op])
        | _ => true) = true := by decide
    have := all op
    rw [h] at this
    simpa [TableEntry.agrees] using this
  | f2 form =>
    have hop := mem_of_f2 h
    simp only [List.mem_cons, List.not_mem_nil, or_false] at hop
    rcases hop with rfl | rfl | rfl | rfl | rfl | rfl | rfl | rfl | rfl <;> (cases h; exact fun _ => ⟨rfl, rfl⟩)
  | f3 form =>
    have hop := mem_of_f3 h
    simp only [List.mem_cons, List.not_mem_nil, or_false] at hop
    rcases hop with rfl | rfl | rfl <;> (cases h; exact fun _ => ⟨rfl, rfl⟩)

end Sys2Proof
end

