-- ==== Sys2Proof/Laws/Flags.lean ====
section
/-! SUPPORT. What the flag computation unit returns, in plain arithmetic. -/

namespace Sys2Proof.Machine

theorem addCore_result (a b : Byte) (cin : Bool) :
    (addCore a b cin).1.toNat = (a.toNat + b.toNat + cin.toNat) % 256 := by
  simp [addCore]

theorem subCore_result (a b : Byte) (bin : Bool) :
    ((subCore a b bin).1.toNat : Int) = ((a.toNat : Int) - b.toNat - bin.toNat) % 256 := by
  simp only [subCore, BitVec.toNat_ofNat]
  omega

theorem incCore_result (v : Byte) (f : Flags) : (incCore v f).1 = v + 1 := by
  apply BitVec.eq_of_toNat_eq
  simp [incCore, BitVec.toNat_add]

theorem decCore_result (v : Byte) (f : Flags) : (decCore v f).1 = v - 1 := by
  apply BitVec.eq_of_toNat_eq
  have := v.isLt
  have h1 : (1 : Byte).toNat = 1 := rfl
  simp only [decCore, BitVec.toNat_ofNat, BitVec.toNat_sub, h1]
  omega

@[simp] theorem setZSP_cy (f : Flags) (r : Byte) : (setZSP f r).cy = f.cy := rfl

@[simp] theorem setZSP_ac (f : Flags) (r : Byte) : (setZSP f r).ac = f.ac := rfl

@[simp] theorem setZSP_z (f : Flags) (r : Byte) : (setZSP f r).z = decide (r = 0) := rfl

@[simp] theorem setZSP_s (f : Flags) (r : Byte) : (setZSP f r).s = r.getLsbD 7 := rfl

@[simp] theorem setZSP_p (f : Flags) (r : Byte) : (setZSP f r).p = decide (popcount r % 2 = 0) := rfl

/-- The Sign flag as a comparison, in simp's spelling of bit 7. -/
theorem getElem_seven (r : Byte) : r[7] = decide (128 ≤ r.toNat) := by
  have h : ∀ r : Byte, r[7] = decide (128 ≤ r.toNat) := by decide
  exact h r

end Sys2Proof.Machine
end

