-- ==== Sys2Proof/Laws/State.lean ====
section
/-! SUPPORT. One lemma per field per update of State, each true by rfl, so that no later proof unfolds a record update;
and what a register read gives after each update. -/

namespace Sys2Proof.Machine

variable (s : State)

/-! ## `setReg` -/

@[simp] theorem State.setReg_regs (r : Reg) (v : Byte) : (s.setReg r v).regs = s.regs.set r v := rfl
@[simp] theorem State.setReg_flags (r : Reg) (v : Byte) : (s.setReg r v).flags = s.flags := rfl
@[simp] theorem State.setReg_pc (r : Reg) (v : Byte) : (s.setReg r v).pc = s.pc := rfl
@[simp] theorem State.setReg_sp (r : Reg) (v : Byte) : (s.setReg r v).sp = s.sp := rfl
@[simp] theorem State.setReg_halted (r : Reg) (v : Byte) : (s.setReg r v).halted = s.halted := rfl
@[simp] theorem State.setReg_inte (r : Reg) (v : Byte) : (s.setReg r v).inte = s.inte := rfl
@[simp] theorem State.setReg_bankEn (r : Reg) (v : Byte) : (s.setReg r v).bankEn = s.bankEn := rfl
@[simp] theorem State.setReg_bank (r : Reg) (v : Byte) : (s.setReg r v).bank = s.bank := rfl
@[simp] theorem State.setReg_mem (r : Reg) (v : Byte) : (s.setReg r v).mem = s.mem := rfl
@[simp] theorem State.setReg_cfg (r : Reg) (v : Byte) : (s.setReg r v).cfg = s.cfg := rfl
@[simp] theorem State.setReg_ioDraws (r : Reg) (v : Byte) : (s.setReg r v).ioDraws = s.ioDraws := rfl
@[simp] theorem State.setReg_ioWrites (r : Reg) (v : Byte) : (s.setReg r v).ioWrites = s.ioWrites := rfl

/-! ## `setFlags` -/

@[simp] theorem State.setFlags_regs (f : Flags) : (s.setFlags f).regs = s.regs := rfl
@[simp] theorem State.setFlags_flags (f : Flags) : (s.setFlags f).flags = f := rfl
@[simp] theorem State.setFlags_pc (f : Flags) : (s.setFlags f).pc = s.pc := rfl
@[simp] theorem State.setFlags_sp (f : Flags) : (s.setFlags f).sp = s.sp := rfl
@[simp] theorem State.setFlags_halted (f : Flags) : (s.setFlags f).halted = s.halted := rfl
@[simp] theorem State.setFlags_inte (f : Flags) : (s.setFlags f).inte = s.inte := rfl
@[simp] theorem State.setFlags_bankEn (f : Flags) : (s.setFlags f).bankEn = s.bankEn := rfl
@[simp] theorem State.setFlags_bank (f : Flags) : (s.setFlags f).bank = s.bank := rfl
@[simp] theorem State.setFlags_mem (f : Flags) : (s.setFlags f).mem = s.mem := rfl
@[simp] theorem State.setFlags_cfg (f : Flags) : (s.setFlags f).cfg = s.cfg := rfl
@[simp] theorem State.setFlags_ioDraws (f : Flags) : (s.setFlags f).ioDraws = s.ioDraws := rfl
@[simp] theorem State.setFlags_ioWrites (f : Flags) : (s.setFlags f).ioWrites = s.ioWrites := rfl

/-! ## `setPC` -/

@[simp] theorem State.setPC_regs (v : Addr) : (s.setPC v).regs = s.regs := rfl
@[simp] theorem State.setPC_flags (v : Addr) : (s.setPC v).flags = s.flags := rfl
@[simp] theorem State.setPC_pc (v : Addr) : (s.setPC v).pc = v := rfl
@[simp] theorem State.setPC_sp (v : Addr) : (s.setPC v).sp = s.sp := rfl
@[simp] theorem State.setPC_halted (v : Addr) : (s.setPC v).halted = s.halted := rfl
@[simp] theorem State.setPC_inte (v : Addr) : (s.setPC v).inte = s.inte := rfl
@[simp] theorem State.setPC_bankEn (v : Addr) : (s.setPC v).bankEn = s.bankEn := rfl
@[simp] theorem State.setPC_bank (v : Addr) : (s.setPC v).bank = s.bank := rfl
@[simp] theorem State.setPC_mem (v : Addr) : (s.setPC v).mem = s.mem := rfl
@[simp] theorem State.setPC_cfg (v : Addr) : (s.setPC v).cfg = s.cfg := rfl
@[simp] theorem State.setPC_ioDraws (v : Addr) : (s.setPC v).ioDraws = s.ioDraws := rfl
@[simp] theorem State.setPC_ioWrites (v : Addr) : (s.setPC v).ioWrites = s.ioWrites := rfl

/-! ## `setSP` -/

@[simp] theorem State.setSP_regs (v : Addr) : (s.setSP v).regs = s.regs := rfl
@[simp] theorem State.setSP_flags (v : Addr) : (s.setSP v).flags = s.flags := rfl
@[simp] theorem State.setSP_pc (v : Addr) : (s.setSP v).pc = s.pc := rfl
@[simp] theorem State.setSP_sp (v : Addr) : (s.setSP v).sp = v := rfl
@[simp] theorem State.setSP_halted (v : Addr) : (s.setSP v).halted = s.halted := rfl
@[simp] theorem State.setSP_inte (v : Addr) : (s.setSP v).inte = s.inte := rfl
@[simp] theorem State.setSP_bankEn (v : Addr) : (s.setSP v).bankEn = s.bankEn := rfl
@[simp] theorem State.setSP_bank (v : Addr) : (s.setSP v).bank = s.bank := rfl
@[simp] theorem State.setSP_mem (v : Addr) : (s.setSP v).mem = s.mem := rfl
@[simp] theorem State.setSP_cfg (v : Addr) : (s.setSP v).cfg = s.cfg := rfl
@[simp] theorem State.setSP_ioDraws (v : Addr) : (s.setSP v).ioDraws = s.ioDraws := rfl
@[simp] theorem State.setSP_ioWrites (v : Addr) : (s.setSP v).ioWrites = s.ioWrites := rfl

/-! ## `halt` -/

@[simp] theorem State.halt_regs : (s.halt).regs = s.regs := rfl
@[simp] theorem State.halt_flags : (s.halt).flags = s.flags := rfl
@[simp] theorem State.halt_pc : (s.halt).pc = s.pc := rfl
@[simp] theorem State.halt_sp : (s.halt).sp = s.sp := rfl
@[simp] theorem State.halt_halted : (s.halt).halted = true := rfl
@[simp] theorem State.halt_inte : (s.halt).inte = s.inte := rfl
@[simp] theorem State.halt_bankEn : (s.halt).bankEn = s.bankEn := rfl
@[simp] theorem State.halt_bank : (s.halt).bank = s.bank := rfl
@[simp] theorem State.halt_mem : (s.halt).mem = s.mem := rfl
@[simp] theorem State.halt_cfg : (s.halt).cfg = s.cfg := rfl
@[simp] theorem State.halt_ioDraws : (s.halt).ioDraws = s.ioDraws := rfl
@[simp] theorem State.halt_ioWrites : (s.halt).ioWrites = s.ioWrites := rfl

/-! ## `setBankEn` -/

@[simp] theorem State.setBankEn_regs (b : Bool) : (s.setBankEn b).regs = s.regs := rfl
@[simp] theorem State.setBankEn_flags (b : Bool) : (s.setBankEn b).flags = s.flags := rfl
@[simp] theorem State.setBankEn_pc (b : Bool) : (s.setBankEn b).pc = s.pc := rfl
@[simp] theorem State.setBankEn_sp (b : Bool) : (s.setBankEn b).sp = s.sp := rfl
@[simp] theorem State.setBankEn_halted (b : Bool) : (s.setBankEn b).halted = s.halted := rfl
@[simp] theorem State.setBankEn_inte (b : Bool) : (s.setBankEn b).inte = s.inte := rfl
@[simp] theorem State.setBankEn_bankEn (b : Bool) : (s.setBankEn b).bankEn = b := rfl
@[simp] theorem State.setBankEn_bank (b : Bool) : (s.setBankEn b).bank = s.bank := rfl
@[simp] theorem State.setBankEn_mem (b : Bool) : (s.setBankEn b).mem = s.mem := rfl
@[simp] theorem State.setBankEn_cfg (b : Bool) : (s.setBankEn b).cfg = s.cfg := rfl
@[simp] theorem State.setBankEn_ioDraws (b : Bool) : (s.setBankEn b).ioDraws = s.ioDraws := rfl
@[simp] theorem State.setBankEn_ioWrites (b : Bool) : (s.setBankEn b).ioWrites = s.ioWrites := rfl

/-! ## `selectBank` -/

@[simp] theorem State.selectBank_regs (k : Nat) : (s.selectBank k).regs = s.regs := rfl
@[simp] theorem State.selectBank_flags (k : Nat) : (s.selectBank k).flags = s.flags := rfl
@[simp] theorem State.selectBank_pc (k : Nat) : (s.selectBank k).pc = s.pc := rfl
@[simp] theorem State.selectBank_sp (k : Nat) : (s.selectBank k).sp = s.sp := rfl
@[simp] theorem State.selectBank_halted (k : Nat) : (s.selectBank k).halted = s.halted := rfl
@[simp] theorem State.selectBank_inte (k : Nat) : (s.selectBank k).inte = s.inte := rfl
@[simp] theorem State.selectBank_bankEn (k : Nat) : (s.selectBank k).bankEn = s.bankEn := rfl
@[simp] theorem State.selectBank_bank (k : Nat) : (s.selectBank k).bank = k := rfl
@[simp] theorem State.selectBank_mem (k : Nat) : (s.selectBank k).mem = s.mem := rfl
@[simp] theorem State.selectBank_cfg (k : Nat) : (s.selectBank k).cfg = s.cfg := rfl
@[simp] theorem State.selectBank_ioDraws (k : Nat) : (s.selectBank k).ioDraws = s.ioDraws := rfl
@[simp] theorem State.selectBank_ioWrites (k : Nat) : (s.selectBank k).ioWrites = s.ioWrites := rfl

/-! ## `memWrite` -/

@[simp] theorem State.memWrite_regs (a : Addr) (v : Byte) : (s.memWrite a v).regs = s.regs := rfl
@[simp] theorem State.memWrite_flags (a : Addr) (v : Byte) : (s.memWrite a v).flags = s.flags := rfl
@[simp] theorem State.memWrite_pc (a : Addr) (v : Byte) : (s.memWrite a v).pc = s.pc := rfl
@[simp] theorem State.memWrite_sp (a : Addr) (v : Byte) : (s.memWrite a v).sp = s.sp := rfl
@[simp] theorem State.memWrite_halted (a : Addr) (v : Byte) : (s.memWrite a v).halted = s.halted := rfl
@[simp] theorem State.memWrite_inte (a : Addr) (v : Byte) : (s.memWrite a v).inte = s.inte := rfl
@[simp] theorem State.memWrite_bankEn (a : Addr) (v : Byte) : (s.memWrite a v).bankEn = s.bankEn := rfl
@[simp] theorem State.memWrite_bank (a : Addr) (v : Byte) : (s.memWrite a v).bank = s.bank := rfl
@[simp] theorem State.memWrite_mem (a : Addr) (v : Byte) : (s.memWrite a v).mem = s.mem.writeCell (s.route a) v := rfl
@[simp] theorem State.memWrite_cfg (a : Addr) (v : Byte) : (s.memWrite a v).cfg = s.cfg := rfl
@[simp] theorem State.memWrite_ioDraws (a : Addr) (v : Byte) : (s.memWrite a v).ioDraws = s.ioDraws := rfl
@[simp] theorem State.memWrite_ioWrites (a : Addr) (v : Byte) : (s.memWrite a v).ioWrites = s.ioWrites := rfl

/-! ## `writeBankPort` -/

@[simp] theorem State.writeBankPort_regs (v : Byte) : (s.writeBankPort v).regs = s.regs := rfl
@[simp] theorem State.writeBankPort_flags (v : Byte) : (s.writeBankPort v).flags = s.flags := rfl
@[simp] theorem State.writeBankPort_pc (v : Byte) : (s.writeBankPort v).pc = s.pc := rfl
@[simp] theorem State.writeBankPort_sp (v : Byte) : (s.writeBankPort v).sp = s.sp := rfl
@[simp] theorem State.writeBankPort_halted (v : Byte) : (s.writeBankPort v).halted = s.halted := rfl
@[simp] theorem State.writeBankPort_inte (v : Byte) : (s.writeBankPort v).inte = s.inte := rfl
@[simp] theorem State.writeBankPort_bankEn (v : Byte) : (s.writeBankPort v).bankEn = s.bankEn := rfl
@[simp] theorem State.writeBankPort_bank (v : Byte) : (s.writeBankPort v).bank = v.toNat % s.cfg.bankCount := rfl
@[simp] theorem State.writeBankPort_mem (v : Byte) : (s.writeBankPort v).mem = s.mem := rfl
@[simp] theorem State.writeBankPort_cfg (v : Byte) : (s.writeBankPort v).cfg = s.cfg := rfl
@[simp] theorem State.writeBankPort_ioDraws (v : Byte) : (s.writeBankPort v).ioDraws = s.ioDraws := rfl
@[simp] theorem State.writeBankPort_ioWrites (v : Byte) : (s.writeBankPort v).ioWrites = s.ioWrites := rfl

/-! ## `ioWrite` -/

@[simp] theorem State.ioWrite_regs (p v : Byte) : (s.ioWrite p v).regs = s.regs := rfl
@[simp] theorem State.ioWrite_flags (p v : Byte) : (s.ioWrite p v).flags = s.flags := rfl
@[simp] theorem State.ioWrite_pc (p v : Byte) : (s.ioWrite p v).pc = s.pc := rfl
@[simp] theorem State.ioWrite_sp (p v : Byte) : (s.ioWrite p v).sp = s.sp := rfl
@[simp] theorem State.ioWrite_halted (p v : Byte) : (s.ioWrite p v).halted = s.halted := rfl
@[simp] theorem State.ioWrite_inte (p v : Byte) : (s.ioWrite p v).inte = s.inte := rfl
@[simp] theorem State.ioWrite_bankEn (p v : Byte) : (s.ioWrite p v).bankEn = s.bankEn := rfl
@[simp] theorem State.ioWrite_bank (p v : Byte) : (s.ioWrite p v).bank = s.bank := rfl
@[simp] theorem State.ioWrite_mem (p v : Byte) : (s.ioWrite p v).mem = s.mem := rfl
@[simp] theorem State.ioWrite_cfg (p v : Byte) : (s.ioWrite p v).cfg = s.cfg := rfl
@[simp] theorem State.ioWrite_ioDraws (p v : Byte) : (s.ioWrite p v).ioDraws = s.ioDraws := rfl
@[simp] theorem State.ioWrite_ioWrites (p v : Byte) : (s.ioWrite p v).ioWrites = (p, v) :: s.ioWrites := rfl

/-! ## `ioRead` -/

@[simp] theorem State.ioRead_fst (p : Byte) : (s.ioRead p).1 = Config.ioRead s.ioDraws p := rfl
@[simp] theorem State.ioRead_regs (p : Byte) : (s.ioRead p).2.regs = s.regs := rfl
@[simp] theorem State.ioRead_flags (p : Byte) : (s.ioRead p).2.flags = s.flags := rfl
@[simp] theorem State.ioRead_pc (p : Byte) : (s.ioRead p).2.pc = s.pc := rfl
@[simp] theorem State.ioRead_sp (p : Byte) : (s.ioRead p).2.sp = s.sp := rfl
@[simp] theorem State.ioRead_halted (p : Byte) : (s.ioRead p).2.halted = s.halted := rfl
@[simp] theorem State.ioRead_inte (p : Byte) : (s.ioRead p).2.inte = s.inte := rfl
@[simp] theorem State.ioRead_bankEn (p : Byte) : (s.ioRead p).2.bankEn = s.bankEn := rfl
@[simp] theorem State.ioRead_bank (p : Byte) : (s.ioRead p).2.bank = s.bank := rfl
@[simp] theorem State.ioRead_mem (p : Byte) : (s.ioRead p).2.mem = s.mem := rfl
@[simp] theorem State.ioRead_cfg (p : Byte) : (s.ioRead p).2.cfg = s.cfg := rfl
@[simp] theorem State.ioRead_ioDraws (p : Byte) : (s.ioRead p).2.ioDraws = s.ioDraws + 1 := rfl
@[simp] theorem State.ioRead_ioWrites (p : Byte) : (s.ioRead p).2.ioWrites = s.ioWrites := rfl

/-! ## Registers -/

@[simp] theorem Regs.get_set (x : Regs) (r q : Reg) (v : Byte) :
    (x.set r v).get q = if q = r then v else x.get q := by
  cases r <;> cases q <;> rfl

@[simp] theorem State.getReg_setReg (r q : Reg) (v : Byte) :
    (s.setReg r v).getReg q = if q = r then v else s.getReg q :=
  Regs.get_set s.regs r q v

@[simp] theorem State.setReg_getReg_self (r : Reg) : s.setReg r (s.getReg r) = s := by
  cases r <;> rfl

@[simp] theorem State.setFlags_getReg (f : Flags) (q : Reg) : (s.setFlags f).getReg q = s.getReg q := rfl
@[simp] theorem State.setPC_getReg (v : Addr) (q : Reg) : (s.setPC v).getReg q = s.getReg q := rfl
@[simp] theorem State.setSP_getReg (v : Addr) (q : Reg) : (s.setSP v).getReg q = s.getReg q := rfl
@[simp] theorem State.halt_getReg (q : Reg) : (s.halt).getReg q = s.getReg q := rfl
@[simp] theorem State.setBankEn_getReg (b : Bool) (q : Reg) : (s.setBankEn b).getReg q = s.getReg q := rfl
@[simp] theorem State.selectBank_getReg (k : Nat) (q : Reg) : (s.selectBank k).getReg q = s.getReg q := rfl
@[simp] theorem State.memWrite_getReg (a : Addr) (v : Byte) (q : Reg) : (s.memWrite a v).getReg q = s.getReg q := rfl
@[simp] theorem State.writeBankPort_getReg (v : Byte) (q : Reg) : (s.writeBankPort v).getReg q = s.getReg q := rfl
@[simp] theorem State.ioWrite_getReg (p v : Byte) (q : Reg) : (s.ioWrite p v).getReg q = s.getReg q := rfl
@[simp] theorem State.ioRead_getReg (p : Byte) (q : Reg) : (s.ioRead p).2.getReg q = s.getReg q := rfl

end Sys2Proof.Machine
end

