-- ==== Sys2Proof/Laws/Memory.lean ====
section
/-! SUPPORT. The laws of the sparse lists, of storage and of the banked memory controller: a read after a write gives the
value written, a write leaves every other cell alone, and every memory operation keeps the canonical form. -/

namespace Sys2Proof.Machine

/-! ## Sparse lists -/

theorem cellsWf_nil : cellsWf [] := by simp [cellsWf]

theorem cellsRead_of_lt {m : List Host.Cell} {a : Nat} (h : ∀ c ∈ m, a < c.1) : cellsRead m a = unlistedByte := by
  induction m with
  | nil => rfl
  | cons c m ih =>
    obtain ⟨b, w⟩ := c
    have hb : a < b := h (b, w) (by simp)
    have : a ≠ b := by omega
    simp [cellsRead, this, ih (fun c hc => h c (by simp [hc]))]

theorem cellsRead_cellsWrite {m : List Host.Cell} (hm : cellsWf m) (a c : Nat) (v : Byte) :
    cellsRead (cellsWrite m a v) c = if c = a then v else cellsRead m c := by
  induction m with
  | nil => by_cases hv : v = unlistedByte <;> simp [cellsWrite, cellsRead, hv]
  | cons x m ih =>
    obtain ⟨b, w⟩ := x
    obtain ⟨hs, hn⟩ := hm
    rw [List.pairwise_cons] at hs
    have ih := ih ⟨hs.2, fun c hc => hn c (by simp [hc])⟩
    have hb : cellsRead m b = unlistedByte := cellsRead_of_lt hs.1
    unfold cellsWrite
    split
    · rename_i hlt
      have ha : cellsRead ((b, w) :: m) a = unlistedByte :=
        cellsRead_of_lt (by
          intro c hc
          rcases List.mem_cons.1 hc with rfl | hc
          · exact hlt
          · exact Nat.lt_trans hlt (hs.1 c hc))
      split
      · rename_i hv
        by_cases hca : c = a
        · simp [hca, hv, ha]
        · simp [hca]
      · by_cases hca : c = a <;> simp [cellsRead, hca]
    · split
      · rename_i hab
        subst hab
        split
        · rename_i hv
          by_cases hca : c = a
          · simp [hca, hv, hb]
          · simp [cellsRead, hca]
        · by_cases hca : c = a <;> simp [cellsRead, hca]
      · rename_i hne
        by_cases hcb : c = b
        · have : c ≠ a := by rintro rfl; exact hne hcb
          simp [cellsRead, hcb]
          intro h
          exact absurd h.symm hne
        · simp [cellsRead, hcb, ih]

theorem mem_cellsWrite {m : List Host.Cell} {a : Nat} {v : Byte} {c : Host.Cell} (h : c ∈ cellsWrite m a v) :
    c ∈ m ∨ (c = (a, v) ∧ v ≠ unlistedByte) := by
  induction m with
  | nil =>
    by_cases hv : v = unlistedByte <;> simp_all [cellsWrite]
  | cons x m ih =>
    obtain ⟨b, w⟩ := x
    unfold cellsWrite at h
    split at h
    · split at h
      · exact .inl h
      · rename_i hv
        rcases List.mem_cons.1 h with h | h
        · exact .inr ⟨h, hv⟩
        · exact .inl h
    · split at h
      · split at h
        · exact .inl (List.mem_cons_of_mem _ h)
        · rename_i hv
          rcases List.mem_cons.1 h with h | h
          · exact .inr ⟨h, hv⟩
          · exact .inl (List.mem_cons_of_mem _ h)
      · rcases List.mem_cons.1 h with h | h
        · exact .inl (by simp [h])
        · rcases ih h with h | h
          · exact .inl (List.mem_cons_of_mem _ h)
          · exact .inr h

theorem cellsWf_cellsWrite {m : List Host.Cell} (hm : cellsWf m) (a : Nat) (v : Byte) : cellsWf (cellsWrite m a v) := by
  refine ⟨?_, fun c hc => ?_⟩
  · induction m with
    | nil => by_cases hv : v = unlistedByte <;> simp [cellsWrite, hv]
    | cons x m ih =>
      obtain ⟨b, w⟩ := x
      obtain ⟨hs, hn⟩ := hm
      have hs' := List.pairwise_cons.1 hs
      have ih := ih ⟨hs'.2, fun c hc => hn c (by simp [hc])⟩
      unfold cellsWrite
      split
      · rename_i hlt
        split
        · exact hs
        · refine List.pairwise_cons.2 ⟨fun c hc => ?_, hs⟩
          rcases List.mem_cons.1 hc with rfl | hc
          · exact hlt
          · exact Nat.lt_trans hlt (hs'.1 c hc)
      · split
        · rename_i hab
          subst hab
          split
          · exact hs'.2
          · exact List.pairwise_cons.2 ⟨hs'.1, hs'.2⟩
        · refine List.pairwise_cons.2 ⟨fun c hc => ?_, ih⟩
          rcases mem_cellsWrite hc with hc | ⟨rfl, -⟩
          · exact hs'.1 c hc
          · show b < a; omega
  · rcases mem_cellsWrite hc with hc | ⟨rfl, hv⟩
    · exact hm.2 c hc
    · exact hv

/-! ## Storage -/

theorem bankKey_inj {k j : Nat} {o p : Addr} (h : bankKey k o = bankKey j p) : k = j ∧ o = p := by
  unfold bankKey at h
  have h1 := o.isLt
  have h2 := p.isLt
  exact ⟨by omega, BitVec.eq_of_toNat_eq (by omega)⟩

/-- What a cell holds after a write. -/
theorem Memory.readCell_writeCell {m : Memory} (hm : m.wf) (c d : StoreCell) (v : Byte) :
    (m.writeCell c v).readCell d = if d = c then v else m.readCell d := by
  cases c with
  | common a =>
    cases d with
    | common b =>
      simp only [Memory.writeCell, Memory.readCell, cellsRead_cellsWrite hm.1, BitVec.toNat_inj, StoreCell.common.injEq]
    | bank k o => simp [Memory.writeCell, Memory.readCell]
  | bank k o =>
    cases d with
    | common b => simp [Memory.writeCell, Memory.readCell]
    | bank j p =>
      simp only [Memory.writeCell, Memory.readCell, cellsRead_cellsWrite hm.2, StoreCell.bank.injEq]
      by_cases h : j = k ∧ p = o
      · simp [h]
      · rw [if_neg (fun e => h (bankKey_inj e)), if_neg h]

theorem Memory.wf_writeCell {m : Memory} (hm : m.wf) (c : StoreCell) (v : Byte) : (m.writeCell c v).wf := by
  cases c with
  | common a => exact ⟨cellsWf_cellsWrite hm.1 _ _, hm.2⟩
  | bank k o => exact ⟨hm.1, cellsWf_cellsWrite hm.2 _ _⟩

/-- A cell the controller can name in a configuration. -/
def StoreCell.exists (c : Config) : StoreCell → Prop
  | .common a => a.toNat < c.bankBase ∨ c.bankBase + c.bankSize ≤ a.toNat
  | .bank k o => k < c.bankCount ∧ o.toNat < c.bankSize

theorem Memory.placed_writeCell {m : Memory} {cfg : Config} (hm : m.placed cfg) {c : StoreCell} (hc : c.exists cfg)
    (v : Byte) : (m.writeCell c v).placed cfg := by
  cases c with
  | common a =>
    refine ⟨fun x hx => ?_, hm.2⟩
    rcases mem_cellsWrite hx with hx | ⟨rfl, -⟩
    · exact hm.1 x hx
    · exact ⟨a.isLt, hc⟩
  | bank k o =>
    refine ⟨hm.1, fun x hx => ?_⟩
    rcases mem_cellsWrite hx with hx | ⟨rfl, -⟩
    · exact hm.2 x hx
    · have ho := o.isLt
      have h1 : bankKey k o / 65536 = k := by unfold bankKey; omega
      have h2 : bankKey k o % 65536 = o.toNat := by unfold bankKey; omega
      show bankKey k o / 65536 < _ ∧ bankKey k o % 65536 < _
      rw [h1, h2]
      exact hc

/-! ## The controller -/

/-- The three cases of `Route` (R52). -/
theorem State.route_enabled {s : State} {a : Addr} (ha : inWindow s.cfg a = true) (he : s.bankEn = true) :
    s.route a = .bank s.bank (windowOffset s.cfg a) := by
  simp [State.route, ha, he]

theorem State.route_disabled {s : State} {a : Addr} (ha : inWindow s.cfg a = true) (he : s.bankEn = false) :
    s.route a = .bank 0 (windowOffset s.cfg a) := by
  simp [State.route, ha, he]

theorem State.route_common {s : State} {a : Addr} (ha : inWindow s.cfg a = false) : s.route a = .common a := by
  simp [State.route, ha]

/-- `inWindow` as the two inequalities of R6. -/
theorem inWindow_iff {c : Config} {a : Addr} :
    inWindow c a = true ↔ c.bankBase ≤ a.toNat ∧ a.toNat < c.bankBase + c.bankSize := by
  simp [inWindow]

/-- Two addresses never name one cell. -/
theorem State.route_inj (s : State) {a b : Addr} (h : s.route a = s.route b) : a = b := by
  unfold State.route at h
  have key : ∀ {x y : Addr}, inWindow s.cfg x = true → inWindow s.cfg y = true →
      windowOffset s.cfg x = windowOffset s.cfg y → x = y := by
    intro x y hx hy hxy
    unfold inWindow at hx hy
    unfold windowOffset at hxy
    have hxy := congrArg BitVec.toNat hxy
    simp only [Bool.and_eq_true, decide_eq_true_eq, BitVec.toNat_ofNat] at hx hy hxy
    have h1 := x.isLt
    have h2 := y.isLt
    exact BitVec.eq_of_toNat_eq (by omega)
  by_cases ha : inWindow s.cfg a = true <;> by_cases hb : inWindow s.cfg b = true <;>
    cases he : s.bankEn <;> simp [ha, hb, he] at h
  all_goals first | exact key ha hb h | exact h

/-- The cell an address names exists, in every state that keeps the bank index legal. -/
theorem State.route_exists {s : State} (hk : s.bank < s.cfg.bankCount) (a : Addr) : (s.route a).exists s.cfg := by
  unfold State.route
  by_cases ha : inWindow s.cfg a = true
  · have ho : (windowOffset s.cfg a).toNat < s.cfg.bankSize := by
      unfold inWindow at ha
      unfold windowOffset
      simp only [Bool.and_eq_true, decide_eq_true_eq, BitVec.toNat_ofNat] at ha ⊢
      have := a.isLt
      omega
    cases s.bankEn <;> simp only [ha, if_true, Bool.false_eq_true, if_false, StoreCell.exists]
    · exact ⟨by omega, ho⟩
    · exact ⟨hk, ho⟩
  · simp only [ha, Bool.false_eq_true, if_false, StoreCell.exists]
    unfold inWindow at ha
    simp only [Bool.and_eq_true, decide_eq_true_eq] at ha
    omega

@[simp] theorem State.memWrite_route (s : State) (a b : Addr) (v : Byte) : (s.memWrite a v).route b = s.route b := rfl

@[simp] theorem State.setReg_route (s : State) (r : Reg) (v : Byte) (a : Addr) : (s.setReg r v).route a = s.route a := rfl

@[simp] theorem State.setFlags_route (s : State) (f : Flags) (a : Addr) : (s.setFlags f).route a = s.route a := rfl

@[simp] theorem State.setPC_route (s : State) (v a : Addr) : (s.setPC v).route a = s.route a := rfl

@[simp] theorem State.setSP_route (s : State) (v a : Addr) : (s.setSP v).route a = s.route a := rfl

@[simp] theorem State.halt_route (s : State) (a : Addr) : s.halt.route a = s.route a := rfl

@[simp] theorem State.ioWrite_route (s : State) (p v : Byte) (a : Addr) : (s.ioWrite p v).route a = s.route a := rfl

@[simp] theorem State.ioRead_route (s : State) (p : Byte) (a : Addr) : (s.ioRead p).2.route a = s.route a := rfl

/-- What a storage cell holds after a write through the controller. -/
theorem State.readCell_memWrite {s : State} (hm : s.mem.wf) (a : Addr) (v : Byte) (c : StoreCell) :
    (s.memWrite a v).mem.readCell c = if c = s.route a then v else s.mem.readCell c :=
  Memory.readCell_writeCell hm _ _ _

/-- What an address reads as after a write through the controller. -/
theorem State.memRead_memWrite {s : State} (hm : s.mem.wf) (a b : Addr) (v : Byte) :
    (s.memWrite a v).memRead b = if b = a then v else s.memRead b := by
  unfold State.memRead
  rw [State.readCell_memWrite hm, State.memWrite_route]
  by_cases h : b = a
  · simp [h]
  · rw [if_neg (fun e => h (s.route_inj e)), if_neg h]

theorem State.wf_memWrite {s : State} (hm : s.mem.wf) (a : Addr) (v : Byte) : (s.memWrite a v).mem.wf :=
  Memory.wf_writeCell hm _ _

theorem State.wf_memWriteList {s : State} (hm : s.mem.wf) (a : Addr) (vs : List Byte) : (s.memWriteList a vs).mem.wf := by
  induction vs generalizing s a with
  | nil => exact hm
  | cons v vs ih => exact ih (State.wf_memWrite hm a v) (a + 1)

theorem State.memWriteList_eq (s : State) (a : Addr) (vs : List Byte) :
    s.memWriteList a vs = { s with mem := (s.memWriteList a vs).mem } := by
  induction vs generalizing s a with
  | nil => rfl
  | cons v vs ih =>
    have h := ih (s.memWrite a v) (a + 1)
    show (s.memWrite a v).memWriteList (a + 1) vs = _
    rw [h]
    rfl

@[simp] theorem State.memWriteList_route (s : State) (a b : Addr) (vs : List Byte) :
    (s.memWriteList a vs).route b = s.route b := by
  rw [State.memWriteList_eq]
  rfl

/-! ## The stack primitives -/

theorem sub_one_sub_one (x : Addr) : x - 1 - 1 = x - 2 := by
  have e1 : (1 : Addr).toNat = 1 := rfl
  have e2 : (2 : Addr).toNat = 2 := rfl
  apply BitVec.eq_of_toNat_eq
  simp only [BitVec.toNat_sub, e1, e2]
  omega

/-- A push is two writes below `sp`. -/
theorem State.push16_eq (s : State) (v : Addr) : s.push16 v =
    { s with sp := s.sp - 2, mem := ((s.memWrite (s.sp - 1) (hiByte v)).memWrite (s.sp - 2) (loByte v)).mem } := by
  rw [← sub_one_sub_one]
  rfl

/-- A pop is two reads from `sp` up. -/
theorem State.pop16_eq (s : State) :
    s.pop16 = (joinBytes (s.memRead (s.sp + 1)) (s.memRead s.sp), s.setSP (s.sp + 2)) := by
  show (joinBytes (s.memRead (s.sp + 1)) (s.memRead s.sp), s.setSP (s.sp + 1 + 1)) = _
  rw [BitVec.add_assoc]
  rfl

theorem State.reset_wf : State.reset.mem.wf := by decide

end Sys2Proof.Machine
end

