-- ==== Sys2Proof/Laws/PerInstr.lean ====
section
/-! SUPPORT. The per-instruction statement: an instruction's bytes begin with an opcode byte that decides their number
(30_encoding.md R86). One lemma per constructor of Instr. -/

namespace Sys2Proof.Laws.EncodeShape

/-- A well-formed instruction encodes to an opcode byte and operand bytes, as many as the byte alone says. -/
def Statement (i : Instr) : Prop :=
  i.wf = true → ∃ op operands, encode i = op :: operands ∧ opcodeLength op = operands.length + 1

theorem nop : Statement .nop := fun _ => ⟨_, _, rfl, rfl⟩
theorem hlt : Statement .hlt := fun _ => ⟨_, _, rfl, rfl⟩
theorem unrecognized (op : Byte) : Statement (.unrecognized op) := fun h =>
  ⟨op, [], rfl, by
    unfold opcodeLength
    rw [dispatchTable_unrecognized op h]
    rfl⟩
theorem movBB : Statement .movBB := fun _ => ⟨_, _, rfl, rfl⟩
theorem movBC : Statement .movBC := fun _ => ⟨_, _, rfl, rfl⟩
theorem movBD : Statement .movBD := fun _ => ⟨_, _, rfl, rfl⟩
theorem movBE : Statement .movBE := fun _ => ⟨_, _, rfl, rfl⟩
theorem movBH : Statement .movBH := fun _ => ⟨_, _, rfl, rfl⟩
theorem movBL : Statement .movBL := fun _ => ⟨_, _, rfl, rfl⟩
theorem movBA : Statement .movBA := fun _ => ⟨_, _, rfl, rfl⟩
theorem movCB : Statement .movCB := fun _ => ⟨_, _, rfl, rfl⟩
theorem movCC : Statement .movCC := fun _ => ⟨_, _, rfl, rfl⟩
theorem movCD : Statement .movCD := fun _ => ⟨_, _, rfl, rfl⟩
theorem movCE : Statement .movCE := fun _ => ⟨_, _, rfl, rfl⟩
theorem movCH : Statement .movCH := fun _ => ⟨_, _, rfl, rfl⟩
theorem movCL : Statement .movCL := fun _ => ⟨_, _, rfl, rfl⟩
theorem movCA : Statement .movCA := fun _ => ⟨_, _, rfl, rfl⟩
theorem movDB : Statement .movDB := fun _ => ⟨_, _, rfl, rfl⟩
theorem movDC : Statement .movDC := fun _ => ⟨_, _, rfl, rfl⟩
theorem movDD : Statement .movDD := fun _ => ⟨_, _, rfl, rfl⟩
theorem movDE : Statement .movDE := fun _ => ⟨_, _, rfl, rfl⟩
theorem movDH : Statement .movDH := fun _ => ⟨_, _, rfl, rfl⟩
theorem movDL : Statement .movDL := fun _ => ⟨_, _, rfl, rfl⟩
theorem movDA : Statement .movDA := fun _ => ⟨_, _, rfl, rfl⟩
theorem movEB : Statement .movEB := fun _ => ⟨_, _, rfl, rfl⟩
theorem movEC : Statement .movEC := fun _ => ⟨_, _, rfl, rfl⟩
theorem movED : Statement .movED := fun _ => ⟨_, _, rfl, rfl⟩
theorem movEE : Statement .movEE := fun _ => ⟨_, _, rfl, rfl⟩
theorem movEH : Statement .movEH := fun _ => ⟨_, _, rfl, rfl⟩
theorem movEL : Statement .movEL := fun _ => ⟨_, _, rfl, rfl⟩
theorem movEA : Statement .movEA := fun _ => ⟨_, _, rfl, rfl⟩
theorem movHB : Statement .movHB := fun _ => ⟨_, _, rfl, rfl⟩
theorem movHC : Statement .movHC := fun _ => ⟨_, _, rfl, rfl⟩
theorem movHD : Statement .movHD := fun _ => ⟨_, _, rfl, rfl⟩
theorem movHE : Statement .movHE := fun _ => ⟨_, _, rfl, rfl⟩
theorem movHH : Statement .movHH := fun _ => ⟨_, _, rfl, rfl⟩
theorem movHL : Statement .movHL := fun _ => ⟨_, _, rfl, rfl⟩
theorem movHA : Statement .movHA := fun _ => ⟨_, _, rfl, rfl⟩
theorem movLB : Statement .movLB := fun _ => ⟨_, _, rfl, rfl⟩
theorem movLC : Statement .movLC := fun _ => ⟨_, _, rfl, rfl⟩
theorem movLD : Statement .movLD := fun _ => ⟨_, _, rfl, rfl⟩
theorem movLE : Statement .movLE := fun _ => ⟨_, _, rfl, rfl⟩
theorem movLH : Statement .movLH := fun _ => ⟨_, _, rfl, rfl⟩
theorem movLL : Statement .movLL := fun _ => ⟨_, _, rfl, rfl⟩
theorem movLA : Statement .movLA := fun _ => ⟨_, _, rfl, rfl⟩
theorem movAB : Statement .movAB := fun _ => ⟨_, _, rfl, rfl⟩
theorem movAC : Statement .movAC := fun _ => ⟨_, _, rfl, rfl⟩
theorem movAD : Statement .movAD := fun _ => ⟨_, _, rfl, rfl⟩
theorem movAE : Statement .movAE := fun _ => ⟨_, _, rfl, rfl⟩
theorem movAH : Statement .movAH := fun _ => ⟨_, _, rfl, rfl⟩
theorem movAL : Statement .movAL := fun _ => ⟨_, _, rfl, rfl⟩
theorem movAA : Statement .movAA := fun _ => ⟨_, _, rfl, rfl⟩
theorem mviB (d8 : Byte) : Statement (.mviB d8) := fun _ => ⟨_, _, rfl, rfl⟩
theorem mviC (d8 : Byte) : Statement (.mviC d8) := fun _ => ⟨_, _, rfl, rfl⟩
theorem mviD (d8 : Byte) : Statement (.mviD d8) := fun _ => ⟨_, _, rfl, rfl⟩
theorem mviE (d8 : Byte) : Statement (.mviE d8) := fun _ => ⟨_, _, rfl, rfl⟩
theorem mviH (d8 : Byte) : Statement (.mviH d8) := fun _ => ⟨_, _, rfl, rfl⟩
theorem mviL (d8 : Byte) : Statement (.mviL d8) := fun _ => ⟨_, _, rfl, rfl⟩
theorem mviA (d8 : Byte) : Statement (.mviA d8) := fun _ => ⟨_, _, rfl, rfl⟩
theorem lda (a16 : Addr) : Statement (.lda a16) := fun _ => ⟨_, _, rfl, rfl⟩
theorem sta (a16 : Addr) : Statement (.sta a16) := fun _ => ⟨_, _, rfl, rfl⟩
theorem addB : Statement .addB := fun _ => ⟨_, _, rfl, rfl⟩
theorem addC : Statement .addC := fun _ => ⟨_, _, rfl, rfl⟩
theorem addD : Statement .addD := fun _ => ⟨_, _, rfl, rfl⟩
theorem addE : Statement .addE := fun _ => ⟨_, _, rfl, rfl⟩
theorem addH : Statement .addH := fun _ => ⟨_, _, rfl, rfl⟩
theorem addL : Statement .addL := fun _ => ⟨_, _, rfl, rfl⟩
theorem addA : Statement .addA := fun _ => ⟨_, _, rfl, rfl⟩
theorem adcB : Statement .adcB := fun _ => ⟨_, _, rfl, rfl⟩
theorem adcC : Statement .adcC := fun _ => ⟨_, _, rfl, rfl⟩
theorem adcD : Statement .adcD := fun _ => ⟨_, _, rfl, rfl⟩
theorem adcE : Statement .adcE := fun _ => ⟨_, _, rfl, rfl⟩
theorem adcH : Statement .adcH := fun _ => ⟨_, _, rfl, rfl⟩
theorem adcL : Statement .adcL := fun _ => ⟨_, _, rfl, rfl⟩
theorem adcA : Statement .adcA := fun _ => ⟨_, _, rfl, rfl⟩
theorem subB : Statement .subB := fun _ => ⟨_, _, rfl, rfl⟩
theorem subC : Statement .subC := fun _ => ⟨_, _, rfl, rfl⟩
theorem subD : Statement .subD := fun _ => ⟨_, _, rfl, rfl⟩
theorem subE : Statement .subE := fun _ => ⟨_, _, rfl, rfl⟩
theorem subH : Statement .subH := fun _ => ⟨_, _, rfl, rfl⟩
theorem subL : Statement .subL := fun _ => ⟨_, _, rfl, rfl⟩
theorem subA : Statement .subA := fun _ => ⟨_, _, rfl, rfl⟩
theorem sbbB : Statement .sbbB := fun _ => ⟨_, _, rfl, rfl⟩
theorem sbbC : Statement .sbbC := fun _ => ⟨_, _, rfl, rfl⟩
theorem sbbD : Statement .sbbD := fun _ => ⟨_, _, rfl, rfl⟩
theorem sbbE : Statement .sbbE := fun _ => ⟨_, _, rfl, rfl⟩
theorem sbbH : Statement .sbbH := fun _ => ⟨_, _, rfl, rfl⟩
theorem sbbL : Statement .sbbL := fun _ => ⟨_, _, rfl, rfl⟩
theorem sbbA : Statement .sbbA := fun _ => ⟨_, _, rfl, rfl⟩
theorem inrB : Statement .inrB := fun _ => ⟨_, _, rfl, rfl⟩
theorem inrC : Statement .inrC := fun _ => ⟨_, _, rfl, rfl⟩
theorem inrD : Statement .inrD := fun _ => ⟨_, _, rfl, rfl⟩
theorem inrE : Statement .inrE := fun _ => ⟨_, _, rfl, rfl⟩
theorem inrH : Statement .inrH := fun _ => ⟨_, _, rfl, rfl⟩
theorem inrL : Statement .inrL := fun _ => ⟨_, _, rfl, rfl⟩
theorem inrA : Statement .inrA := fun _ => ⟨_, _, rfl, rfl⟩
theorem dcrB : Statement .dcrB := fun _ => ⟨_, _, rfl, rfl⟩
theorem dcrC : Statement .dcrC := fun _ => ⟨_, _, rfl, rfl⟩
theorem dcrD : Statement .dcrD := fun _ => ⟨_, _, rfl, rfl⟩
theorem dcrE : Statement .dcrE := fun _ => ⟨_, _, rfl, rfl⟩
theorem dcrH : Statement .dcrH := fun _ => ⟨_, _, rfl, rfl⟩
theorem dcrL : Statement .dcrL := fun _ => ⟨_, _, rfl, rfl⟩
theorem dcrA : Statement .dcrA := fun _ => ⟨_, _, rfl, rfl⟩
theorem jmp (a16 : Addr) : Statement (.jmp a16) := fun _ => ⟨_, _, rfl, rfl⟩
theorem outPort (p8 : Byte) : Statement (.outPort p8) := fun _ => ⟨_, _, rfl, rfl⟩
theorem inPort (p8 : Byte) : Statement (.inPort p8) := fun _ => ⟨_, _, rfl, rfl⟩

end Sys2Proof.Laws.EncodeShape
end

