-- ==== Sys2Proof/Laws/Step.lean ====
section
/-! SUPPORT. Said once, everything an instruction and a step can do. -/

namespace Sys2Proof.Machine

/-- The one kind of change an executed instruction makes. -/
inductive Change (s : State) : State → Prop where
  | same : Change s s
  | halt : Change s s.halt
  | reg (r : Reg) (v : Byte) : Change s (s.setReg r v)
  | regFlags (r : Reg) (v : Byte) (f : Flags) : Change s ((s.setReg r v).setFlags f)
  | store (a : Addr) (v : Byte) : Change s (s.memWrite a v)
  | jump (a : Addr) : Change s (s.setPC a)
  | bank (v : Byte) : Change s (s.writeBankPort v)
  | output (p v : Byte) : Change s (s.ioWrite p v)
  | input (p : Byte) : Change s ((s.ioRead p).2.setReg .a (s.ioRead p).1)

/-- Every instruction answers a next state, one change away. -/
theorem exec_does (i : Instr) (s : State) : ∃ t, exec i s = .next t ∧ Change s t := by
  cases i
  case outPort p =>
    by_cases h : p = Config.bankPort
    · exact ⟨_, if_pos h, .bank _⟩
    · exact ⟨_, if_neg h, .output _ _⟩
  case inPort p =>
    by_cases h : p = Config.bankPort
    · exact ⟨_, if_pos h, .reg _ _⟩
    · exact ⟨_, if_neg h, .input _⟩
  case nop => exact ⟨_, rfl, .same⟩
  case hlt => exact ⟨_, rfl, .halt⟩
  case unrecognized => exact ⟨_, rfl, .same⟩
  case sta => exact ⟨_, rfl, .store _ _⟩
  case jmp => exact ⟨_, rfl, .jump _⟩
  all_goals first
    | exact ⟨_, rfl, .reg _ _⟩
    | exact ⟨_, rfl, .regFlags _ _ _⟩

theorem change_of_exec {i : Instr} {s t : State} (h : exec i s = .next t) : Change s t := by
  obtain ⟨u, hu, hc⟩ := exec_does i s
  rw [h] at hu
  cases hu
  exact hc

theorem step_halted {s : State} (h : s.halted = true) : step s = .next s := if_pos h

theorem step_running {s : State} (h : s.halted = false) : step s = exec s.fetchInstr.1 s.fetchInstr.2 :=
  if_neg (by simp [h])

/-- What fetching gives, row by row of the dispatch table. -/
theorem fetchInstr_f1 {s : State} {i : Instr} (h : dispatchTable (s.memRead s.pc) = .f1 i) :
    s.fetchInstr = (i, s.setPC (s.pc + 1)) := by
  unfold State.fetchInstr
  simp only [State.fetch8, h]

theorem fetchInstr_f2 {s : State} {form : Byte → Instr} (h : dispatchTable (s.memRead s.pc) = .f2 form) :
    s.fetchInstr = (form (s.memRead (s.pc + 1)), s.setPC (s.pc + 2)) := by
  unfold State.fetchInstr
  simp only [State.fetch8, h, State.setPC_pc]
  show (form (s.memRead (s.pc + 1)), s.setPC (s.pc + 1 + 1)) = _
  rw [BitVec.add_assoc]
  rfl

theorem fetchInstr_f3 {s : State} {form : Addr → Instr} (h : dispatchTable (s.memRead s.pc) = .f3 form) :
    s.fetchInstr = (form (joinBytes (s.memRead (s.pc + 2)) (s.memRead (s.pc + 1))), s.setPC (s.pc + 3)) := by
  unfold State.fetchInstr
  simp only [State.fetch8, State.fetch16, h, State.setPC_pc]
  show (form (joinBytes (s.memRead (s.pc + 1 + 1)) (s.memRead (s.pc + 1))), s.setPC (s.pc + 1 + 1 + 1)) = _
  simp only [BitVec.add_assoc]
  rfl

/-- Fetching moves `pc` and nothing else. -/
theorem fetchInstr_state (s : State) : ∃ a, s.fetchInstr.2 = s.setPC a := by
  cases h : dispatchTable (s.memRead s.pc) with
  | f1 i => exact ⟨_, by rw [fetchInstr_f1 h]⟩
  | f2 form => exact ⟨_, by rw [fetchInstr_f2 h]⟩
  | f3 form => exact ⟨_, by rw [fetchInstr_f3 h]⟩

/-- What was fetched: a well-formed instruction whose bytes are those at `pc`, and `pc` moved past them. -/
theorem fetchInstr_bytes (s : State) : s.fetchInstr.1.wf = true ∧
    ((encode s.fetchInstr.1 = [s.opcode] ∧ s.fetchInstr.2 = s.setPC (s.pc + 1)) ∨
     (encode s.fetchInstr.1 = [s.opcode, s.operand8] ∧ s.fetchInstr.2 = s.setPC (s.pc + 2)) ∨
     (encode s.fetchInstr.1 = [s.opcode, loByte s.operand16, hiByte s.operand16] ∧
       s.fetchInstr.2 = s.setPC (s.pc + 3))) := by
  have hc := dispatchTable_agrees (s.memRead s.pc)
  cases h : dispatchTable (s.memRead s.pc) with
  | f1 i =>
    rw [h] at hc
    rw [fetchInstr_f1 h]
    exact ⟨hc.1, .inl ⟨hc.2, rfl⟩⟩
  | f2 form =>
    rw [h] at hc
    rw [fetchInstr_f2 h]
    exact ⟨(hc _).1, .inr (.inl ⟨(hc _).2, rfl⟩)⟩
  | f3 form =>
    rw [h] at hc
    rw [fetchInstr_f3 h]
    exact ⟨(hc _).1, .inr (.inr ⟨(hc _).2, rfl⟩)⟩

/-- Everything a step can do: nothing when Halted; otherwise `pc` moves past the fetched bytes and one change follows. -/
theorem step_does (s : State) : ∃ t, step s = .next t ∧
    ((s.halted = true ∧ t = s) ∨ (s.halted = false ∧ ∃ a, s.fetchInstr.2 = s.setPC a ∧ Change (s.setPC a) t)) := by
  cases h : s.halted with
  | true => exact ⟨s, step_halted h, .inl ⟨rfl, rfl⟩⟩
  | false =>
    obtain ⟨a, ha⟩ := fetchInstr_state s
    obtain ⟨t, ht, hc⟩ := exec_does s.fetchInstr.1 s.fetchInstr.2
    exact ⟨t, by rw [step_running h, ht], .inr ⟨rfl, a, ha, ha ▸ hc⟩⟩

/-- The same, from a step that answered. -/
theorem step_cases {s t : State} (h : step s = .next t) :
    (s.halted = true ∧ t = s) ∨ (s.halted = false ∧ ∃ a, s.fetchInstr.2 = s.setPC a ∧ Change (s.setPC a) t) := by
  obtain ⟨u, hu, hc⟩ := step_does s
  rw [h] at hu
  cases hu
  exact hc

/-! ## What every change keeps -/

variable {s t : State}

theorem Change.sp (h : Change s t) : t.sp = s.sp := by cases h <;> rfl

theorem Change.inte (h : Change s t) : t.inte = s.inte := by cases h <;> rfl

theorem Change.bankEn (h : Change s t) : t.bankEn = s.bankEn := by cases h <;> rfl

theorem Change.cfg (h : Change s t) : t.cfg = s.cfg := by cases h <;> rfl

/-- The bank index stays legal. -/
theorem Change.bank_lt (h : Change s t) (hk : s.bank < s.cfg.bankCount) : t.bank < t.cfg.bankCount := by
  cases h <;> first | exact hk | exact Nat.mod_lt _ (by omega)

/-- Storage keeps its canonical form. -/
theorem Change.mem_wf (h : Change s t) (hm : s.mem.wf) : t.mem.wf := by
  cases h <;> first | exact hm | exact State.wf_memWrite hm _ _

/-- Every listed cell still exists. -/
theorem Change.mem_placed (h : Change s t) (hk : s.bank < s.cfg.bankCount) (hp : s.mem.placed s.cfg) :
    t.mem.placed t.cfg := by
  cases h <;> first | exact hp | exact Memory.placed_writeCell hp (State.route_exists hk _) _

end Sys2Proof.Machine
end

