-- ==== Sys2Proof/Tests/Slice0.lean ====
section
/-! SUPPORT. Tests: one step on a small state each, with the expected values of spec/95_test_vectors.md (named in each
comment); and, for every statement with hypotheses, a witness that they can be met together. -/

open Sys2Proof Sys2Proof.Machine

namespace Sys2Proof.Tests

/-! ## Helpers -/

/-- The reset state with bytes placed at an address and `pc` there. -/
def at_ (a : Addr) (bs : List Byte) : State := (State.reset.memWriteList a bs).setPC a

/-- The same with `A` and `B`. -/
def withAB (a b : Byte) (bs : List Byte) : State := ((at_ 0 bs).setReg .a a).setReg .b b

/-- The state with a carry. -/
def withCY (c : Bool) (s : State) : State := s.setFlags { s.flags with cy := c }

/-- A check of the state after one step. -/
def after (s : State) (p : State → Bool) : Bool :=
  match step s with
  | .next t => p t
  | .fault _ => false
  | .refused _ => false

/-- A check of the reply and the state after one host operation. -/
def afterHost (s : State) (op : HostOp) (p : Reply → State → Bool) : Bool :=
  match hostOp op s with
  | .next (r, t) => p r t
  | .fault _ => false
  | .refused _ => false

/-- `S Z AC P CY`, in the order of the vectors. -/
def flagList (t : State) : List Bool := [t.flags.s, t.flags.z, t.flags.ac, t.flags.p, t.flags.cy]

/-- One arithmetic vector with the operand in B: opcode, `A`, `r`, `CY` in, `A` after, flags after. -/
def arith (op a r : Byte) (cin : Bool) (a' : Byte) (f : List Bool) : Bool :=
  after (withCY cin (withAB a r [op])) fun t => t.getReg .a == a' && flagList t == f && t.getReg .b == r && t.pc == 1

/-! ## Well-formedness -/

theorem test_wf_refuses_recognized_byte : (Instr.unrecognized 0x00).wf = false := by decide
theorem test_wf_refuses_hlt_byte : (Instr.unrecognized 0x76).wf = false := by decide
theorem test_wf_accepts_listed_byte : (Instr.unrecognized 0x08).wf = true := by decide
theorem test_cfg_refuses_no_bank : ¬ ({ Config.cfgEx with bankCount := 0 } : Config).wf := by decide
theorem test_cfg_refuses_257_banks : ¬ ({ Config.cfgEx with bankCount := 257 } : Config).wf := by decide
theorem test_cfg_refuses_empty_window : ¬ ({ Config.cfgEx with bankSize := 0 } : Config).wf := by decide
theorem test_cfg_refuses_wrapping_window : ¬ ({ Config.cfgEx with bankBase := 0xC001 } : Config).wf := by decide
theorem test_mem_refuses_listed_zero : ¬ ({ common := [(5, 0)], bankmem := [] } : Memory).wf := by decide
theorem test_mem_refuses_unsorted : ¬ ({ common := [(5, 1), (4, 1)], bankmem := [] } : Memory).wf := by decide
theorem test_mem_refuses_unsorted_bank : ¬ ({ common := [], bankmem := [(7, 1), (7, 2)] } : Memory).wf := by decide
theorem test_placed_refuses_common_in_window :
    ¬ ({ common := [(0x8000, 1)], bankmem := [] } : Memory).placed Config.cfgEx := by decide
theorem test_placed_refuses_bank_four :
    ¬ ({ common := [], bankmem := [(4 * 65536, 1)] } : Memory).placed Config.cfgEx := by decide

/-! ## Decoding, words written out bit by bit from 30_encoding.md R82 -/

theorem test_decode_mov_l_h : decode [0b01101100] = .ok (.movLH, []) := by decide
theorem test_decode_mov_b_a : decode [0b01000111] = .ok (.movBA, []) := by decide
theorem test_decode_mvi_e : decode [0b00011110, 0xC4] = .ok (.mviE 0xC4, []) := by decide
theorem test_decode_inr_h : decode [0b00100100] = .ok (.inrH, []) := by decide
theorem test_decode_dcr_c : decode [0b00001101] = .ok (.dcrC, []) := by decide
theorem test_decode_add_d : decode [0b10000010] = .ok (.addD, []) := by decide
theorem test_decode_adc_l : decode [0b10001101] = .ok (.adcL, []) := by decide
theorem test_decode_sub_a : decode [0b10010111] = .ok (.subA, []) := by decide
theorem test_decode_sbb_b : decode [0b10011000] = .ok (.sbbB, []) := by decide
theorem test_decode_nop_hlt : decode [0b00000000] = .ok (.nop, []) ∧ decode [0b01110110] = .ok (.hlt, []) := by decide
theorem test_decode_lda : decode [0b00111010, 0x34, 0x12] = .ok (.lda 0x1234, []) := by decide
theorem test_decode_sta : decode [0b00110010, 0x00, 0x80] = .ok (.sta 0x8000, []) := by decide
theorem test_decode_jmp : decode [0b11000011, 0x06, 0x00] = .ok (.jmp 0x0006, []) := by decide
theorem test_decode_out_in :
    decode [0b11010011, 0xFF] = .ok (.outPort 0xFF, []) ∧ decode [0b11011011, 0x10] = .ok (.inPort 0x10, []) := by decide
theorem test_decode_code_six : decode [0x7E] = .ok (.unrecognized 0x7E, []) ∧ decode [0x34] = .ok (.unrecognized 0x34, []) ∧
    decode [0x86] = .ok (.unrecognized 0x86, []) := by decide
theorem test_decode_table_word : decodeTableWord 8 0x3A = some (.lda 0) ∧ decodeTableWord 24 0x12343A = some (.lda 0x1234) := by
  decide
/-- R88's counts: 105 recognized bytes. -/
theorem test_recognized_count :
    ((List.range 256).filter fun n => !isUnrecognized (BitVec.ofNat 8 n)).length = 105 := by decide +kernel

/-! ## Control -/

/-- C1 -/
theorem test_nop : after State.reset (fun t => t == State.reset.setPC 1) = true := by decide
/-- R102: NOP at 0xFFFF -/
theorem test_nop_wraps : after (State.reset.setPC 0xFFFF) (fun t => t.pc == 0) = true := by decide
/-- C2 -/
theorem test_hlt : after (at_ 0 [0x76]) (fun t => t == ((at_ 0 [0x76]).halt).setPC 1) = true := by decide
/-- C3 -/
theorem test_halted_step : after (at_ 0 [0x3E, 0x07]).halt (fun t => t == (at_ 0 [0x3E, 0x07]).halt) = true := by decide
/-- R105's example, C6 -/
theorem test_unrecognized : after (at_ 0x100 [0x08]) (fun t => t == (at_ 0x100 [0x08]).setPC 0x101) = true := by decide
/-- T6: 0x36 fetches no operand -/
theorem test_unrecognized_one_byte : after (at_ 0 [0x36, 0xC4]) (fun t => t == (at_ 0 [0x36, 0xC4]).setPC 1) = true := by
  decide

/-! ## Data transfer -/

/-- T1 -/
theorem test_mov : after (withAB 0x12 0x34 [0x47]) (fun t => t.getReg .b == 0x12 && t.getReg .a == 0x12 && t.pc == 1) = true := by
  decide
/-- T3 -/
theorem test_mov_identity : after ((at_ 0 [0x5B]).setReg .e 0x55) (fun t => t == ((at_ 1 []).setReg .e 0x55).memWriteList 0 [0x5B]) = true := by
  decide
/-- T5 -/
theorem test_mvi : after (at_ 0 [0x2E, 0xC4]) (fun t => t.getReg .l == 0xC4 && t.pc == 2) = true := by decide
/-- P5: an immediate across the wrap -/
theorem test_mvi_wraps : after (at_ 0xFFFF [0x3E, 0x42]) (fun t => t.getReg .a == 0x42 && t.pc == 1) = true := by decide
/-- T7 -/
theorem test_lda : after ((at_ 0x10 [0x3A, 0x34, 0x12]).memWrite 0x1234 0x5A)
    (fun t => t.getReg .a == 0x5A && t.pc == 0x13) = true := by decide
/-- T10 -/
theorem test_lda_wraps : after ((at_ 0xFFFE [0x3A, 0x02, 0x00]).memWrite 2 0x6B)
    (fun t => t.getReg .a == 0x6B && t.pc == 1) = true := by decide
/-- T8 -/
theorem test_sta : after ((at_ 0x10 [0x32, 0x00, 0x20]).setReg .a 0xA7)
    (fun t => t.memRead 0x2000 == 0xA7 && t.pc == 0x13) = true := by decide
/-- T9: a store over its own operand -/
theorem test_sta_own_operand : after ((at_ 0 [0x32, 0x01, 0x00]).setReg .a 0x99)
    (fun t => t.memRead 1 == 0x99 && t.memRead 0 == 0x32 && t.pc == 3) = true := by decide

/-! ## Arithmetic: section 2 of the vectors -/

theorem test_add : (arith 0x80 0x05 0x03 true 0x08 [false, false, false, false, false]
    && arith 0x80 0xFF 0x01 false 0x00 [false, true, true, true, true]
    && arith 0x80 0x7F 0x01 false 0x80 [true, false, true, false, false]
    && arith 0x80 0x80 0x80 false 0x00 [false, true, false, true, true]
    && arith 0x80 0xFF 0xFF false 0xFE [true, false, true, false, true]) = true := by decide
/-- ADD A doubles -/
theorem test_add_a : after ((at_ 0 [0x87]).setReg .a 0x3C)
    (fun t => t.getReg .a == 0x78 && flagList t == [false, false, true, true, false]) = true := by decide
theorem test_adc : (arith 0x88 0xFF 0xFF true 0xFF [true, false, true, true, true]
    && arith 0x88 0x0F 0x00 true 0x10 [false, false, true, false, false]
    && arith 0x88 0x8F 0x70 true 0x00 [false, true, true, true, true]
    && arith 0x88 0x12 0x34 true 0x47 [false, false, false, true, false]
    && arith 0x88 0x05 0x03 false 0x08 [false, false, false, false, false]) = true := by decide
theorem test_sub : (arith 0x90 0x00 0x01 true 0xFF [true, false, true, true, true]
    && arith 0x90 0x10 0x01 false 0x0F [false, false, true, true, false]
    && arith 0x90 0x34 0x56 false 0xDE [true, false, true, true, true]
    && arith 0x90 0x0A 0x03 false 0x07 [false, false, false, false, false]
    && arith 0x90 0x7F 0xFF false 0x80 [true, false, false, false, true]) = true := by decide
theorem test_sbb : (arith 0x98 0x12 0x04 true 0x0D [false, false, true, false, false]
    && arith 0x98 0x00 0x00 true 0xFF [true, false, true, true, true]
    && arith 0x98 0x10 0x0F true 0x00 [false, true, true, true, false]
    && arith 0x98 0xA5 0xFF true 0xA5 [true, false, true, true, true]
    && arith 0x98 0x05 0x05 false 0x00 [false, true, false, true, false]) = true := by decide

/-! ## INR, DCR: section 3 of the vectors, with `CY` both ways -/

/-- One vector on register B. -/
def incdec (op old new : Byte) (f : List Bool) (cy : Bool) : Bool :=
  after (withCY cy (withAB 0 old [op])) fun t => t.getReg .b == new && flagList t == f ++ [cy] && t.pc == 1

theorem test_inr : (incdec 0x04 0x0F 0x10 [false, false, true, false] true
    && incdec 0x04 0x7F 0x80 [true, false, true, false] false
    && incdec 0x04 0xFF 0x00 [false, true, true, true] false
    && incdec 0x04 0x02 0x03 [false, false, false, true] true
    && incdec 0x04 0xEF 0xF0 [true, false, true, true] true) = true := by decide
theorem test_dcr : (incdec 0x05 0x00 0xFF [true, false, true, true] false
    && incdec 0x05 0x01 0x00 [false, true, false, true] true
    && incdec 0x05 0x10 0x0F [false, false, true, true] false
    && incdec 0x05 0x80 0x7F [false, false, true, false] true
    && incdec 0x05 0xFF 0xFE [true, false, false, false] false) = true := by decide

/-! ## Jump and I/O -/

/-- J1 -/
theorem test_jmp : after (at_ 0x100 [0xC3, 0x34, 0x12]) (fun t => t.pc == 0x1234) = true := by decide
/-- R135: a JMP at 0xFFFE takes its high operand byte from 0x0000 -/
theorem test_jmp_wraps : after (at_ 0xFFFE [0xC3, 0x34, 0x12]) (fun t => t.pc == 0x1234) = true := by decide
/-- IO2, IO3 -/
theorem test_out_masks : (after ((at_ 0 [0xD3, 0xFF]).setReg .a 0x06) (fun t => t.bank == 2 && t.pc == 2)
    && after ((at_ 0 [0xD3, 0xFF]).setReg .a 0xFF) (fun t => t.bank == 3)) = true := by decide
/-- IO4, IO5: BANK_COUNT 1 and 3 -/
theorem test_out_masks_counts :
    (after ({ at_ 0 [0xD3, 0xFF] with cfg := ⟨1, 0x8000, 0x4000⟩ }.setReg .a 0x05) (fun t => t.bank == 0)
    && after ({ at_ 0 [0xD3, 0xFF] with cfg := ⟨3, 0x8000, 0x4000⟩ }.setReg .a 0x07) (fun t => t.bank == 1)) = true := by
  decide
/-- IO7 -/
theorem test_out_other : after (((at_ 0 [0xD3, 0x10]).setReg .a 0x5A).selectBank 1)
    (fun t => t.bank == 1 && t.ioWrites == [(0x10, 0x5A)] && t.pc == 2) = true := by decide
/-- IO6 -/
theorem test_in_bank : after ((at_ 0 [0xDB, 0xFF]).selectBank 3) (fun t => t.getReg .a == 3 && t.pc == 2) = true := by decide
/-- IO8: every field but the free byte -/
theorem test_in_other : after ((at_ 0 [0xDB, 0x10]).setReg .a 0x5A)
    (fun t => t.ioDraws == 1 && t.pc == 2 && t.flags == State.reset.flags && t.getReg .b == 0) = true := by decide

/-! ## Host operations: sections 5 to 7 of the vectors -/

/-- M1, M2 -/
theorem test_bank_isolation :
    let s := ((State.reset.setBankEn true).selectBank 1).memWrite 0x8000 0x11
    ((s.selectBank 2).memRead 0x8000 == 0x00
    && (((s.selectBank 2).memWrite 0x8000 0x22).selectBank 1).memRead 0x8000 == 0x11) = true := by decide
/-- M4, M5: the edges of the window -/
theorem test_window_edges :
    let s := ((((State.reset.setBankEn true).selectBank 3).memWrite 0x7FFF 0x33).memWrite 0xC000 0x44).memWrite 0xBFFF 0x55
    ((s.selectBank 0).memRead 0x7FFF == 0x33 && (s.selectBank 0).memRead 0xC000 == 0x44
    && (s.selectBank 0).memRead 0xBFFF == 0x00 && s.mem.bankmem == [(3 * 65536 + 0x3FFF, 0x55)]) = true := by decide
/-- M6 -/
theorem test_disabled_window_is_bank_zero :
    ((State.reset.memWrite 0x9000 0x66).setBankEn true).memRead 0x9000 = 0x66 := by decide
/-- M8 -/
theorem test_setBank_clamps : afterHost State.reset (.setBank 6) (fun _ t => t.bank == 3) = true := by decide
/-- L1 -/
theorem test_load : afterHost State.reset (.loadProgram [0x3E, 0x05] 0x100)
    (fun r t => r == .done && t.memRead 0x100 == 0x3E && t.memRead 0x101 == 0x05 && t.pc == 0x100) = true := by decide
/-- L3 -/
theorem test_load_overflow : afterHost State.reset (.loadProgram [0xAA, 0xBB] 0xFFFF)
    (fun r t => r == .rejected .programLoadOverflow && t == State.reset) = true := by decide
/-- L6: a load across the window's base -/
theorem test_load_banked : afterHost ((State.reset.setBankEn true).selectBank 2) (.loadProgram [0x01, 0x02] 0x7FFF)
    (fun _ t => t.mem == { common := [(0x7FFF, 1)], bankmem := [(2 * 65536, 2)] }) = true := by decide
/-- K1 -/
theorem test_push : afterHost State.reset (.push16 0xBEEF)
    (fun _ t => t.sp == 0xFFFD && t.memRead 0xFFFE == 0xBE && t.memRead 0xFFFD == 0xEF) = true := by decide
/-- K3 -/
theorem test_pop_wraps : afterHost ((State.reset.memWrite 0xFFFF 0xCD).memWrite 0 0xAB) .pop16
    (fun r t => r == .word 0xABCD && t.sp == 1) = true := by decide
/-- H1 -/
theorem test_setReg : afterHost State.reset (.setReg .b 0x15A)
    (fun _ t => t == { State.reset with regs := { State.reset.regs with b := 0x5A } }) = true := by decide
/-- M10, C5 -/
theorem test_host_reset : afterHost (((at_ 0 [0x76]).setBankEn true).selectBank 1).halt .reset
    (fun _ t => t == State.reset) = true := by decide
/-- withFetchWord places the word the next step runs -/
theorem test_withFetchWord : after (State.reset.withFetchWord 16 0x053E) (fun t => t.getReg .a == 0x05 && t.pc == 2) = true := by
  decide
/-- R22: the pair views, high byte first (P3: H = 0D, L = DE) -/
theorem test_pair_view : ((State.reset.setReg .h 0x0D).setReg .l 0xDE).pairHL = 0x0DDE := by decide

/-! ## Witnesses: the hypotheses of each statement can be met -/

theorem witness_ClearedMemory : State.reset.halted = false ∧ ∀ a, State.reset.memRead a = 0x00 :=
  ⟨rfl, fun a => by unfold State.memRead; cases State.reset.route a <;> rfl⟩
theorem witness_ResetStateHasTheInvariant : Config.cfgEx.wf ∧ (⟨1, 0, 65536⟩ : Config).wf ∧ (⟨256, 65535, 1⟩ : Config).wf := by
  decide
theorem witness_StepKeepsTheInvariant :
    State.reset.Inv ∧ step State.reset = .next (State.reset.setPC 1) := ⟨by decide, rfl⟩
theorem witness_ReachableStatesHaveTheInvariant : Config.cfgEx.wf ∧ Reachable Config.cfgEx State.reset :=
  ⟨by decide, .built⟩
theorem witness_StepLeavesPc_halted : step State.reset.halt = .next State.reset.halt ∧ State.reset.halt.halted = true :=
  ⟨rfl, rfl⟩
theorem witness_StepLeavesPc_running :
    (after (at_ 0xFFFF [0xC3]) (fun t => t.pc == 0) && after (at_ 0xFFFF [0x32]) (fun t => t.pc == 2)
    && after (at_ 0xFFFF [0xDB, 0xFF]) (fun t => t.pc == 1) && after (at_ 0xFFFF [0xFF]) (fun t => t.pc == 0)) = true := by
  decide
theorem witness_OnlyResetStackPrimitivesAndSetterMoveSp : step State.reset = .next (State.reset.setPC 1) ∧
    hostOp .getBank State.reset = .next (.number 0, State.reset) := ⟨rfl, rfl⟩
/-- the bytes where the clauses meet: 0x7F and 0xA0 are outside the arithmetic group, 0x86 and 0x34 have code 6, 0x3C is INR -/
theorem witness_OnlyArithmeticAndIncDecWriteFlags :
    (after (withCY true (at_ 0 [0x7F])) (fun t => t.flags.cy) && after (withCY true (at_ 0 [0xA0])) (fun t => t.flags.cy)
    && after (withCY true (at_ 0 [0x86])) (fun t => t.flags.cy) && after (withCY true (at_ 0 [0x34])) (fun t => t.flags.cy)
    && after (withCY true (at_ 0 [0x3C])) (fun t => t.flags.cy)) = true := by decide
theorem witness_NoInstructionReadsFlagsOtherThanCarry :
    ({ s := true, z := true, ac := true, p := true, cy := false } : Flags).cy = State.reset.flags.cy ∧
    exec .inrB State.reset = execInrB State.reset := ⟨rfl, rfl⟩
theorem witness_HostOperationsKeepTheInvariant : State.reset.Inv ∧
    hostOp (.setBank 6) State.reset = .next (.done, State.reset.selectBank 3) ∧
    hostOp (.setMemory 0xC000 0xAA) State.reset = .next (.done, State.reset.memWrite 0xC000 0xAA) := ⟨by decide, rfl, rfl⟩
theorem witness_StepsWriteNoControlState : after ((at_ 0 [0xD3, 0xFF]).setReg .a 0x05)
    (fun t => t.bank == 1 && !t.bankEn) && after ((at_ 0 [0xD3, 0xFE]).setReg .a 0x05) (fun t => t.bank == 0) = true := by
  decide
theorem witness_RoutingSelectsTheCell :
    (0x8000 : Addr).toNat = Config.cfgEx.bankBase ∧ (0xBFFF : Addr).toNat + 1 = Config.cfgEx.bankBase + Config.cfgEx.bankSize ∧
    (0x7FFF : Addr).toNat < Config.cfgEx.bankBase ∧ Config.cfgEx.bankBase + Config.cfgEx.bankSize ≤ (0xC000 : Addr).toNat := by
  decide
/-- for MemWriteChangesOneCell, StaStoresOneByteThroughTheController, PushStoresHighByteAboveLowByte,
PushThenPopReturnsTheValue, HostMemoryAccessIsRouted -/
theorem witness_memory_wf : State.reset.mem.wf ∧ ((State.reset.memWrite 0x8000 1).memWrite 5 2).mem.wf := by decide
theorem witness_BanksAreIsolated :
    let s := State.reset.setBankEn true
    s.mem.wf ∧ s.bankEn = true ∧ inWindow s.cfg 0x8000 = true ∧ inWindow s.cfg 0xBFFF = true ∧
    inWindow s.cfg 0x7FFF = false ∧ inWindow s.cfg 0xC000 = false ∧
    ∀ w ∈ [((2 : Nat), (0x8000 : Addr), (0x55 : Byte)), (0, 0x7FFF, 1)], w.1 ≠ 1 := by decide
/-- bank 2 differs, bank 1 is visible -/
theorem witness_HiddenBankNeverInfluencesAStep :
    let s := (State.reset.setBankEn true).selectBank 1
    let t : State := { s with mem := s.mem.writeCell (.bank 2 0) 0x55 }
    s.mem.wf ∧ t.mem.wf ∧ s.agreeOffBank 2 t ∧ 2 ≠ s.visibleBank ∧ step s = .next (s.setPC 1) ∧ t ≠ s := by
  refine ⟨by decide, by decide, ⟨rfl, fun c hc => ?_⟩, by decide, rfl, by decide⟩
  exact (Memory.readCell_writeCell State.reset_wf (.bank 2 0) c 0x55).trans (if_neg (hc 0))
theorem witness_BankControlCopiesNothing :
    State.reset.mem.wf ∧ State.reset.bankEn = false ∧ inWindow State.reset.cfg 0x9000 = true := by decide
theorem witness_OnlyStaWritesMemory :
    let s := (at_ 0 [0x32, 0x00, 0x20]).setReg .a 1
    s.mem.wf ∧ s.halted = false ∧ s.opcode = 0x32 ∧ after s (fun t => t.memRead 0x2000 == 1) = true := by decide
theorem witness_StoredByteIsFetchedNext :
    let s := at_ 0xFFFE [0x32, 0x01, 0x00]
    s.mem.wf ∧ s.halted = false ∧ s.opcode = 0x32 ∧ s.operand16 = s.pc + 3 := by decide
theorem witness_DecodeOfEncode : (Instr.unrecognized 0x01).wf = true ∧ (Instr.unrecognized 0xFF).wf = true ∧
    (Instr.jmp 0xFFFF).wf = true := by decide
/-- for EncodeOfDecodeIsTheBytes and OpcodeByteDecidesTheLength: one list for each length -/
theorem witness_decode_each_length : decode [0x76, 9] = .ok (.hlt, [9]) ∧ decode [0x3E, 5, 9] = .ok (.mviA 5, [9]) ∧
    decode [0xC3, 6, 0, 9] = .ok (.jmp 6, [9]) := by decide
theorem witness_DecoderRejects : ([0x00] : List Byte).length + 1 < opcodeLength 0x32 ∧
    opcodeLength 0x32 ≤ ([0x00, 0x00] : List Byte).length + 1 := by decide
theorem witness_StepIsFetchDecodeExecute : State.reset.halted = false ∧ State.reset.halt.halted = true ∧
    dispatchTable ((at_ 0 [0x76]).memRead 0) = .f1 .hlt ∧ dispatchTable ((at_ 0 [0xD3]).memRead 0) = .f2 .outPort ∧
    dispatchTable ((at_ 0 [0xC3]).memRead 0) = .f3 .jmp := ⟨rfl, rfl, rfl, rfl, rfl⟩
theorem witness_StepRunsTheDecodedInstruction :
    let s := at_ 0xFFFF [0x3E, 0x05]
    s.halted = false ∧ decode [s.memRead s.pc, s.memRead (s.pc + 1), s.memRead (s.pc + 2)] = .ok (.mviA 0x05, [0x00]) := by
  decide
/-- for HaltedIsTerminalUntilReset and RunningAndHaltedTransitions -/
theorem witness_halted : State.reset.halt.halted = true ∧ HostOp.getPC ≠ .reset ∧ HostOp.getPC ≠ .step ∧
    hostOp .getPC State.reset.halt = .next (.word 0, State.reset.halt) := ⟨rfl, by decide, by decide, rfl⟩
theorem witness_RunningAndHalted_hlt : (at_ 0xFFFF [0x76]).halted = false ∧ (at_ 0xFFFF [0x76]).opcode = 0x76 ∧
    after (at_ 0xFFFF [0x76]) (fun t => t.halted && t.pc == 0) = true := by decide
theorem witness_NopHltAndUnrecognized : State.reset.opcode = 0x00 ∧ (at_ 0 [0x01]).opcode = 0x01 ∧
    (at_ 0 [0xFF]).opcode = 0xFF ∧ ((1, 3) ∈ unrecognizedRanges ∧ (0xDC, 0xFF) ∈ unrecognizedRanges) := by decide
/-- for OutToAnotherPortOnlyPresentsThePair and InFromAnotherPortReadsAFreeByte -/
theorem witness_other_port : (0x00 : Byte) ≠ 0xFF ∧ (0xFE : Byte) ≠ 0xFF := by decide
/-- for InFromPortFFReadsTheBank and AccessorsReturnTheValueAndChangeNothing: the highest index there is -/
theorem witness_bank_255 : (⟨256, 0x8000, 0x4000⟩ : Config).wf ∧
    ((State.resetWith ⟨256, 0x8000, 0x4000⟩).selectBank 255).bank < 256 := by decide
theorem witness_BankPortRoundTrip :
    let s := (State.reset.setBankEn true).setReg .a 3
    s.cfg.wf ∧ (s.getReg .a).toNat < s.cfg.bankCount ∧ s.bankEn = true ∧ inWindow s.cfg 0x8000 = true := by decide
/-- L2 and L3: the last accepted and the first rejected load -/
theorem witness_LoadProgram : (0xFFFF : Addr).toNat + ([0xAA, 0xBB] : List Byte).length > 65536 ∧
    (0xFFFE : Addr).toNat + ([0xAA, 0xBB] : List Byte).length ≤ 65536 ∧ State.reset.mem.wf := by decide
theorem witness_SetBankClampsTheIndex : 4 ≥ State.reset.cfg.bankCount ∧ 3 < State.reset.cfg.bankCount := by decide

end Sys2Proof.Tests
end

section
/-! SUPPORT. The proofs of the statements about the whole machine (10_state.md): who moves `sp` (R27) and who writes the
flags (R29, R30). -/

namespace Sys2Proof.Machine

/-! ## No instruction reads or writes `sp` (R27) -/

/-- The controller reads memory without looking at `sp`. -/
@[simp] theorem State.setSP_memRead (s : State) (v a : Addr) : (s.setSP v).memRead a = s.memRead a := rfl

/-- Fetching neither looks at `sp` nor moves it. -/
theorem fetchInstr_setSP (s : State) (v : Addr) :
    (s.setSP v).fetchInstr = (s.fetchInstr.1, s.fetchInstr.2.setSP v) := by
  cases h : dispatchTable (s.memRead s.pc) with
  | f1 i => rw [fetchInstr_f1 h, fetchInstr_f1 (s := s.setSP v) h]; rfl
  | f2 form => rw [fetchInstr_f2 h, fetchInstr_f2 (s := s.setSP v) h]; rfl
  | f3 form => rw [fetchInstr_f3 h, fetchInstr_f3 (s := s.setSP v) h]; rfl

/-- An instruction's effect is the same whatever `sp` holds. -/
theorem exec_setSP (i : Instr) (s : State) (v : Addr) :
    ∃ t, exec i s = .next t ∧ exec i (s.setSP v) = .next (t.setSP v) := by
  cases i
  case outPort p =>
    by_cases hp : p = Config.bankPort
    · exact ⟨_, if_pos hp, if_pos hp⟩
    · exact ⟨_, if_neg hp, if_neg hp⟩
  case inPort p =>
    by_cases hp : p = Config.bankPort
    · exact ⟨_, if_pos hp, if_pos hp⟩
    · exact ⟨_, if_neg hp, if_neg hp⟩
  all_goals exact ⟨_, rfl, rfl⟩

theorem step_setSP {s t : State} (h : step s = .next t) (v : Addr) : step (s.setSP v) = .next (t.setSP v) := by
  cases hs : s.halted with
  | true =>
    rw [step_halted hs] at h
    cases h
    exact step_halted hs
  | false =>
    obtain ⟨u, hu, huv⟩ := exec_setSP s.fetchInstr.1 s.fetchInstr.2 v
    rw [step_running hs, hu] at h
    cases h
    rw [step_running (s := s.setSP v) hs, fetchInstr_setSP, huv]

theorem step_keeps_sp {s t : State} (h : step s = .next t) : t.sp = s.sp := by
  obtain ⟨-, rfl⟩ | ⟨-, a, -, hc⟩ := step_cases h
  · rfl
  · exact hc.sp

/-! ## The host operations and `sp` (R27) -/

@[simp] theorem State.memWriteList_sp (s : State) (a : Addr) (vs : List Byte) : (s.memWriteList a vs).sp = s.sp := by
  rw [State.memWriteList_eq]

theorem State.loadProgram_keeps_sp {s t : State} {bytes : List Byte} {start : Addr}
    (h : s.loadProgram bytes start = .ok t) : t.sp = s.sp := by
  unfold State.loadProgram at h
  split at h
  · cases h
  · cases h
    simp

@[simp] theorem State.hostSetBank_sp (s : State) (k : Nat) : (s.hostSetBank k).sp = s.sp := by
  unfold State.hostSetBank
  split <;> rfl

/-- The host's `step` is the machine's (R162). -/
theorem step_of_hostOp_step {s t : State} {r : Reply} (h : hostOp .step s = .next (r, t)) : step s = .next t := by
  obtain ⟨u, hu, -⟩ := step_does s
  simp only [hostOp, hu, Host.Outcome.next.injEq, Prod.mk.injEq] at h
  rw [hu, h.2]

theorem hostOp_keeps_sp {op : HostOp} {s t : State} {r : Reply} (h : hostOp op s = .next (r, t)) (hreset : op ≠ .reset)
    (hpop : op ≠ .pop16) (hpush : ∀ v, op ≠ .push16 v) (hset : ∀ v, op ≠ .setSP v) : t.sp = s.sp := by
  cases op
  case reset => exact absurd rfl hreset
  case pop16 => exact absurd rfl hpop
  case push16 v => exact absurd rfl (hpush v)
  case setSP v => exact absurd rfl (hset v)
  case step => exact step_keeps_sp (step_of_hostOp_step h)
  case loadProgram bytes start =>
    cases hl : s.loadProgram bytes start with
    | error e => simp only [hostOp, hl] at h; cases h; rfl
    | ok u => simp only [hostOp, hl] at h; cases h; exact State.loadProgram_keeps_sp hl
  case setBank k => cases h; simp
  all_goals cases h; rfl

theorem State.push16_sp_toNat (s : State) (v : Addr) : (s.push16 v).sp.toNat = (s.sp.toNat + 65534) % 65536 := by
  rw [State.push16_eq]
  show (s.sp - 2).toNat = _
  bv_omega

theorem State.pop16_sp_toNat (s : State) : s.pop16.2.sp.toNat = (s.sp.toNat + 2) % 65536 := by
  rw [State.pop16_eq]
  exact BitVec.toNat_add s.sp 2

/-- Settles O7: a step neither moves `sp` nor depends on it, and of the host operations only the named ones write it. -/
theorem onlyResetStackPrimitivesAndSetterMoveSp : Obligations.OnlyResetStackPrimitivesAndSetterMoveSp :=
  ⟨fun _ _ h => ⟨step_keeps_sp h, step_setSP h⟩,
    fun _ _ _ _ h hreset hpop hpush hset => hostOp_keeps_sp h hreset hpop hpush hset,
    fun s v => ⟨s.push16_sp_toNat v, s.pop16_sp_toNat⟩⟩

/-! ## Who writes the flags (R29, R30) -/

/-- The opcode bytes of ADD, ADC, SUB and SBB: bit 5 of group 10 is 0, and code 6 names no register (R82, R83). -/
abbrev isArithOpcode (op : Byte) : Prop := 0x80 ≤ op.toNat ∧ op.toNat < 0xA0 ∧ op.toNat % 8 ≠ 6

/-- The opcode bytes of INR and DCR (R82, R83). -/
abbrev isIncDecOpcode (op : Byte) : Prop := op.toNat < 0x40 ∧ (op.toNat % 8 = 4 ∨ op.toNat % 8 = 5) ∧ op.toNat / 8 ≠ 6

/-- What an instruction does to the flags, told from its opcode byte. -/
theorem exec_flags {i : Instr} {op : Byte} {operands : List Byte} (henc : encode i = op :: operands) (s : State) :
    ∃ t, exec i s = .next t ∧
      (t.flags = s.flags ∨ isArithOpcode op ∨ (isIncDecOpcode op ∧ t.flags.cy = s.flags.cy)) := by
  cases i
  case addB | addC | addD | addE | addH | addL | addA | adcB | adcC | adcD | adcE | adcH | adcL | adcA
      | subB | subC | subD | subE | subH | subL | subA | sbbB | sbbC | sbbD | sbbE | sbbH | sbbL | sbbA =>
    cases henc
    exact ⟨_, rfl, .inr (.inl (by decide))⟩
  case inrB | inrC | inrD | inrE | inrH | inrL | inrA | dcrB | dcrC | dcrD | dcrE | dcrH | dcrL | dcrA =>
    cases henc
    exact ⟨_, rfl, .inr (.inr ⟨by decide, rfl⟩)⟩
  case outPort p =>
    by_cases hp : p = Config.bankPort
    · exact ⟨_, if_pos hp, .inl rfl⟩
    · exact ⟨_, if_neg hp, .inl rfl⟩
  case inPort p =>
    by_cases hp : p = Config.bankPort
    · exact ⟨_, if_pos hp, .inl rfl⟩
    · exact ⟨_, if_neg hp, .inl rfl⟩
  all_goals exact ⟨_, rfl, .inl rfl⟩

/-- The fetched instruction's first byte is the opcode. -/
theorem encode_fetchInstr (s : State) : ∃ operands, encode s.fetchInstr.1 = s.opcode :: operands := by
  obtain ⟨-, ⟨h, -⟩ | ⟨h, -⟩ | ⟨h, -⟩⟩ := fetchInstr_bytes s <;> exact ⟨_, h⟩

@[simp] theorem fetchInstr_flags (s : State) : s.fetchInstr.2.flags = s.flags := by
  obtain ⟨a, ha⟩ := fetchInstr_state s
  rw [ha, State.setPC_flags]

/-- The same for a step: `exec_flags` at the opcode byte that is fetched. -/
theorem step_flags {s t : State} (hs : s.halted = false) (h : step s = .next t) :
    t.flags = s.flags ∨ isArithOpcode s.opcode ∨ (isIncDecOpcode s.opcode ∧ t.flags.cy = s.flags.cy) := by
  obtain ⟨operands, henc⟩ := encode_fetchInstr s
  obtain ⟨u, hu, hflags⟩ := exec_flags henc s.fetchInstr.2
  rw [step_running hs, hu] at h
  cases h
  rwa [fetchInstr_flags] at hflags

/-- Settles O8: by `step_flags`, only the opcodes of ADD, ADC, SUB, SBB, INR and DCR change a flag; those below 0x40 among
them are INR and DCR, which keep `CY`. -/
theorem onlyArithmeticAndIncDecWriteFlags : Obligations.OnlyArithmeticAndIncDecWriteFlags := by
  intro s t hs h
  obtain hkeep | harith | ⟨hincdec, hcy⟩ := step_flags hs h
  · exact ⟨fun _ _ => hkeep, fun _ => by rw [hkeep]⟩
  · exact ⟨fun hn => absurd harith hn, fun hlt => absurd harith.1 (by omega)⟩
  · exact ⟨fun _ hn => absurd hincdec hn, fun _ => hcy⟩

end Sys2Proof.Machine
end

section
/-! SUPPORT. The proofs of the statements about the banked memory controller (20_memory.md): routing (R52, R53), what a
write changes (R54), and that bank control moves no data (R56, R166). -/

namespace Sys2Proof.Machine

/-! ## Routing (R52, R53) -/

/-- A window address names a cell of the visible bank, whether switching is enabled or not. -/
theorem State.route_window {s : State} {a : Addr} (ha : inWindow s.cfg a = true) :
    s.route a = .bank s.visibleBank (windowOffset s.cfg a) := by
  cases he : s.bankEn with
  | true => rw [State.route_enabled ha he, State.visibleBank, he, if_pos rfl]
  | false => rw [State.route_disabled ha he, State.visibleBank, he, if_neg Bool.false_ne_true]

/-- Outside WINDOW, as the inequalities of R6. -/
theorem inWindow_eq_false_iff {c : Config} {a : Addr} :
    inWindow c a = false ↔ a.toNat < c.bankBase ∨ c.bankBase + c.bankSize ≤ a.toNat := by
  rw [← Bool.not_eq_true, inWindow_iff]
  omega

/-- Settles O11: a read returns the routed cell, and `Route` has one case in the window and one outside. -/
theorem routingSelectsTheCell : Obligations.RoutingSelectsTheCell := fun s _ =>
  ⟨fun hin => congrArg s.mem.readCell (State.route_window (inWindow_iff.mpr hin)),
    fun hout => congrArg s.mem.readCell (State.route_common (inWindow_eq_false_iff.mpr hout))⟩

/-! ## A write stores one byte (R54) -/

/-- Settles O12: by `State.readCell_memWrite` for the cells and `State.memRead_memWrite` for the addresses. -/
theorem memWriteChangesOneCell : Obligations.MemWriteChangesOneCell := by
  intro s a v hm
  have hcell := State.readCell_memWrite hm a v
  exact ⟨(hcell _).trans (if_pos rfl), fun c hc => (hcell c).trans (if_neg hc), fun b => State.memRead_memWrite hm a b v,
    rfl, State.wf_memWrite hm a v⟩

/-! ## Bank control moves no data (R56, R166) -/

@[simp] theorem State.hostSetBank_mem (s : State) (k : Nat) : (s.hostSetBank k).mem = s.mem := by
  unfold State.hostSetBank
  split <;> rfl

/-- OUT 0xFF is the write effect of the bank-select port (R140). -/
theorem exec_outPort_bankPort (s : State) : exec (.outPort 0xFF) s = .next (s.writeBankPort (s.getReg .a)) := rfl

/-- A window address names the same cell while switching is disabled as when it is enabled with bank 0 selected. -/
theorem State.route_enable_bank_zero {s : State} {a : Addr} (he : s.bankEn = false) (ha : inWindow s.cfg a = true) :
    ((s.setBankEn true).selectBank 0).route a = s.route a := by
  rw [State.route_disabled ha he]
  exact State.route_enabled (s := (s.setBankEn true).selectBank 0) ha rfl

/-- Enabling switching with bank 0 selected changes no window byte from what it was while disabled. -/
theorem State.memRead_enable_bank_zero {s : State} {a : Addr} (he : s.bankEn = false) (ha : inWindow s.cfg a = true) :
    ((s.setBankEn true).selectBank 0).memRead a = s.memRead a :=
  congrArg s.mem.readCell (State.route_enable_bank_zero he ha)

/-- Settles O15: the controls leave storage alone, and a disabled window is bank 0 (`State.memRead_enable_bank_zero`). -/
theorem bankControlCopiesNothing : Obligations.BankControlCopiesNothing := by
  intro s
  refine ⟨fun n => ⟨_, rfl, s.hostSetBank_mem n⟩, fun b => ⟨_, rfl, rfl⟩,
    ⟨_, exec_outPort_bankPort s, s.writeBankPort_mem _⟩, fun a v hm he ha => ?_⟩
  calc (((s.memWrite a v).setBankEn true).selectBank 0).memRead a
    _ = (s.memWrite a v).memRead a := State.memRead_enable_bank_zero he ha
    _ = v := (State.memRead_memWrite hm a a v).trans (if_pos rfl)

end Sys2Proof.Machine
end

section
/-! SUPPORT. The proofs of the statements about encoding (30_encoding.md): the decoder row by row of the dispatch table,
the length an opcode byte decides (R81, R86), and the fetch operations (R84, R85). -/

namespace Sys2Proof

/-! ## The decoder, by the opcode's row (R80, R81) -/

theorem decode_f1 {op : Byte} {i : Instr} (h : dispatchTable op = .f1 i) (rest : List Byte) :
    decode (op :: rest) = .ok (i, rest) := by
  simp only [decode, h]

theorem decode_f2 {op : Byte} {form : Byte → Instr} (h : dispatchTable op = .f2 form) (b : Byte) (rest : List Byte) :
    decode (op :: b :: rest) = .ok (form b, rest) := by
  simp only [decode, h]

theorem decode_f3 {op : Byte} {form : Addr → Instr} (h : dispatchTable op = .f3 form) (lo hi : Byte) (rest : List Byte) :
    decode (op :: lo :: hi :: rest) = .ok (form (joinBytes hi lo), rest) := by
  simp only [decode, h]

/-- What an accepted list consists of: the opcode byte, the operand bytes its row has, and the tail. -/
theorem decode_cases {op : Byte} {rest tail : List Byte} {i : Instr} (h : decode (op :: rest) = .ok (i, tail)) :
    (dispatchTable op = .f1 i ∧ rest = tail) ∨
    (∃ form b, dispatchTable op = .f2 form ∧ i = form b ∧ rest = b :: tail) ∨
    (∃ form lo hi, dispatchTable op = .f3 form ∧ i = form (joinBytes hi lo) ∧ rest = lo :: hi :: tail) := by
  cases hrow : dispatchTable op with
  | f1 j =>
    rw [decode_f1 hrow] at h
    cases h
    exact .inl ⟨rfl, rfl⟩
  | f2 form =>
    match rest with
    | [] => simp [decode, hrow] at h
    | b :: _ =>
      rw [decode_f2 hrow] at h
      cases h
      exact .inr (.inl ⟨form, b, rfl, rfl, rfl⟩)
  | f3 form =>
    match rest with
    | [] | [_] => simp [decode, hrow] at h
    | lo :: hi :: _ =>
      rw [decode_f3 hrow] at h
      cases h
      exact .inr (.inr ⟨form, lo, hi, rfl, rfl, rfl⟩)

/-! ## The length of an instruction (R81, R86) -/

/-- The decoder takes as many bytes as the opcode's row says. -/
theorem length_of_decode {op : Byte} {rest tail : List Byte} {i : Instr} (h : decode (op :: rest) = .ok (i, tail)) :
    rest.length + 1 = tail.length + opcodeLength op := by
  unfold opcodeLength
  obtain ⟨hrow, rfl⟩ | ⟨form, b, hrow, -, rfl⟩ | ⟨form, lo, hi, hrow, -, rfl⟩ := decode_cases h <;> rw [hrow] <;> rfl

/-- R86's lists of the three-byte and the two-byte opcodes. -/
theorem opcodeLength_eq : ∀ op : Byte, opcodeLength op =
    if op ∈ ([0x32, 0x3A, 0xC3] : List Byte) then 3
    else if op ∈ ([0x06, 0x0E, 0x16, 0x1E, 0x26, 0x2E, 0x3E, 0xD3, 0xDB] : List Byte) then 2 else 1 := by
  decide

/-- Settles O22: the decoder takes `opcodeLength op` bytes, and `opcodeLength` is R86's lists. -/
theorem opcodeByteDecidesTheLength : Obligations.OpcodeByteDecidesTheLength := by
  intro op rest tail i h
  rw [← opcodeLength_eq]
  exact length_of_decode h

end Sys2Proof

namespace Sys2Proof.Machine

/-! ## Fetching (R84, R85) -/

theorem State.fetch8_pc_toNat (s : State) : s.fetch8.2.pc.toNat = (s.pc.toNat + 1) % 65536 :=
  BitVec.toNat_add s.pc 1

/-- `Fetch16` reads the low byte at `pc` and the high byte after it, and moves `pc` past both. -/
theorem State.fetch16_eq (s : State) :
    s.fetch16 = (joinBytes (s.memRead (s.pc + 1)) (s.memRead s.pc), s.setPC (s.pc + 2)) := by
  show (joinBytes (s.memRead (s.pc + 1)) (s.memRead s.pc), s.setPC (s.pc + 1 + 1)) = _
  rw [BitVec.add_assoc]
  rfl

/-- The fetched instruction is the one the decoder reads from the three bytes at `pc`. -/
theorem decode_bytes_at_pc (s : State) :
    ∃ rest, decode [s.memRead s.pc, s.memRead (s.pc + 1), s.memRead (s.pc + 2)] = .ok (s.fetchInstr.1, rest) := by
  cases h : dispatchTable (s.memRead s.pc) with
  | f1 i => exact ⟨_, by rw [decode_f1 h, fetchInstr_f1 h]⟩
  | f2 form => exact ⟨_, by rw [decode_f2 h, fetchInstr_f2 h]⟩
  | f3 form => exact ⟨_, by rw [decode_f3 h, fetchInstr_f3 h]⟩

/-- Fetching moves `pc` past the bytes of the fetched instruction. -/
theorem fetchInstr_setPC_length (s : State) :
    s.fetchInstr.2 = s.setPC (s.pc + BitVec.ofNat 16 (encode s.fetchInstr.1).length) := by
  obtain ⟨-, ⟨henc, hpc⟩ | ⟨henc, hpc⟩ | ⟨henc, hpc⟩⟩ := fetchInstr_bytes s <;> rw [henc] <;> exact hpc

/-- Settles O24: the first two parts are `Fetch8` itself, the rest is `decode_bytes_at_pc` and `fetchInstr_setPC_length`. -/
theorem fetchEightReadsAtPcAndIncrements : Obligations.FetchEightReadsAtPcAndIncrements := fun s =>
  ⟨rfl, rfl, s.fetch8_pc_toNat, decode_bytes_at_pc s, fetchInstr_setPC_length s⟩

/-- Settles O25: by `State.fetch16_eq`, and the value of `hi : lo` is `joinBytes_toNat`. -/
theorem fetchSixteenIsLittleEndian : Obligations.FetchSixteenIsLittleEndian := by
  intro s
  rw [State.fetch16_eq]
  exact ⟨joinBytes_toNat _ _, rfl⟩

end Sys2Proof.Machine
end

section
/-! SUPPORT. The proofs of the statements about the step and control (40_step_and_control.md): the step by the opcode's row
(R100), the one-byte instructions that compute nothing (R102, R103, R105), and the Halted state (R104). -/

namespace Sys2Proof.Machine

/-! ## The step, by the opcode's row (R100) -/

theorem step_f1 {s : State} {i : Instr} (hs : s.halted = false) (h : dispatchTable (s.memRead s.pc) = .f1 i) :
    step s = exec i (s.setPC (s.pc + 1)) := by
  rw [step_running hs, fetchInstr_f1 h]

theorem step_f2 {s : State} {form : Byte → Instr} (hs : s.halted = false)
    (h : dispatchTable (s.memRead s.pc) = .f2 form) :
    step s = exec (form (s.memRead (s.pc + 1))) (s.setPC (s.pc + 2)) := by
  rw [step_running hs, fetchInstr_f2 h]

theorem step_f3 {s : State} {form : Addr → Instr} (hs : s.halted = false)
    (h : dispatchTable (s.memRead s.pc) = .f3 form) :
    step s = exec (form (joinBytes (s.memRead (s.pc + 2)) (s.memRead (s.pc + 1)))) (s.setPC (s.pc + 3)) := by
  rw [step_running hs, fetchInstr_f3 h]

theorem step_completes (s : State) : ∃ t, step s = .next t := by
  obtain ⟨t, ht, -⟩ := step_does s
  exact ⟨t, ht⟩

/-- Settles O26: a step always answers (`step_does`), is idle when Halted, and otherwise executes what each of the three
formats fetches. -/
theorem stepIsFetchDecodeExecute : Obligations.StepIsFetchDecodeExecute := fun s =>
  ⟨step_completes s, step_halted, fun hs => ⟨fun _ => step_f1 hs, fun _ => step_f2 hs, fun _ => step_f3 hs⟩⟩

/-! ## NOP, HLT and the unrecognized bytes (R102, R103, R105) -/

theorem exec_nop (s : State) : exec .nop s = .next s := rfl

theorem exec_hlt (s : State) : exec .hlt s = .next s.halt := rfl

theorem exec_unrecognized (op : Byte) (s : State) : exec (.unrecognized op) s = .next s := rfl

theorem isUnrecognized_iff {op : Byte} :
    isUnrecognized op = true ↔ ∃ r ∈ unrecognizedRanges, r.1 ≤ op.toNat ∧ op.toNat ≤ r.2 := by
  simp [isUnrecognized]

theorem step_nop {s : State} (hs : s.halted = false) (hop : s.opcode = 0x00) : step s = .next (s.setPC (s.pc + 1)) :=
  (step_f1 hs (congrArg dispatchTable hop)).trans (exec_nop _)

theorem step_hlt {s : State} (hs : s.halted = false) (hop : s.opcode = 0x76) :
    step s = .next (s.setPC (s.pc + 1)).halt :=
  (step_f1 hs (congrArg dispatchTable hop)).trans (exec_hlt _)

theorem step_unrecognized {s : State} (hs : s.halted = false) (hop : isUnrecognized s.opcode = true) :
    step s = .next (s.setPC (s.pc + 1)) :=
  (step_f1 hs (dispatchTable_unrecognized _ hop)).trans (exec_unrecognized _ _)

/-- Settles O31: the `exec` parts are the three meanings; a step finds the row of the byte and moves `pc` past it first. -/
theorem nopHltAndUnrecognizedEffects : Obligations.NopHltAndUnrecognizedEffects :=
  ⟨exec_nop, exec_unrecognized, exec_hlt, fun _ hs =>
    ⟨step_nop hs, fun hop => step_unrecognized hs (isUnrecognized_iff.mpr hop), step_hlt hs⟩⟩

/-! ## The Halted state (R104) -/

/-- Halt idempotence, for any number of steps. -/
theorem run_halted {s : State} (h : s.halted = true) (n : Nat) : Host.Core.run Sys2Proof.core n s = .next s := by
  have hstep : Sys2Proof.core.step s = .next s := step_halted h
  induction n with
  | zero => rfl
  | succ n ih => simp only [Host.Core.run, hstep, ih]

@[simp] theorem State.memWriteList_halted (s : State) (a : Addr) (vs : List Byte) :
    (s.memWriteList a vs).halted = s.halted := by
  rw [State.memWriteList_eq]

@[simp] theorem State.hostSetBank_halted (s : State) (k : Nat) : (s.hostSetBank k).halted = s.halted := by
  unfold State.hostSetBank
  split <;> rfl

theorem hostOp_step {s t : State} (h : step s = .next t) : hostOp .step s = .next (.done, t) := by
  simp only [hostOp, h]

/-- `loadProgram` leaves the state alone or stores the whole program and sets `pc` (R163). -/
theorem hostOp_loadProgram (s : State) (bytes : List Byte) (start : Addr) :
    ∃ r t, hostOp (.loadProgram bytes start) s = .next (r, t) ∧
      (t = s ∨ t = (s.memWriteList start bytes).setPC start) := by
  by_cases h : start.toNat + bytes.length > 65536
  · have hl : s.loadProgram bytes start = .error .programLoadOverflow := if_pos h
    exact ⟨.rejected .programLoadOverflow, s, by simp only [hostOp, hl], .inl rfl⟩
  · have hl : s.loadProgram bytes start = .ok ((s.memWriteList start bytes).setPC start) := if_neg h
    exact ⟨.done, _, by simp only [hostOp, hl], .inr rfl⟩

/-- Every host operation but reset and step answers, and leaves `halted` alone. -/
theorem hostOp_keeps_halted {op : HostOp} (hreset : op ≠ .reset) (hstep : op ≠ .step) (s : State) :
    ∃ r t, hostOp op s = .next (r, t) ∧ t.halted = s.halted := by
  cases op
  case reset => exact absurd rfl hreset
  case step => exact absurd rfl hstep
  case loadProgram bytes start =>
    obtain ⟨r, t, ht, rfl | rfl⟩ := hostOp_loadProgram s bytes start
    · exact ⟨r, _, ht, rfl⟩
    · exact ⟨r, _, ht, s.memWriteList_halted start bytes⟩
  case setBank k => exact ⟨_, _, rfl, s.hostSetBank_halted k⟩
  all_goals exact ⟨_, _, rfl, rfl⟩

/-- Settles O29: a Halted block does not step (`run_halted`), the host operations but reset and step leave `halted` alone
(`hostOp_keeps_halted`), and reset clears it. -/
theorem haltedIsTerminalUntilReset : Obligations.HaltedIsTerminalUntilReset := by
  intro s h
  refine ⟨run_halted h, fun op hreset => ?_, s.hostReset, rfl, rfl⟩
  by_cases hstep : op = .step
  · subst hstep
    exact ⟨_, s, hostOp_step (step_halted h), h⟩
  · obtain ⟨r, t, ht, hkeep⟩ := hostOp_keeps_halted hreset hstep s
    exact ⟨r, t, ht, hkeep.trans h⟩

end Sys2Proof.Machine
end

section
/-! SUPPORT. The proofs of the statements about data transfer (41_data_transfer.md): what a register write and a store
leave unchanged (R24, R54), then MOV (R110), MVI (R111), LDA (R112) and STA (R113). -/

namespace Sys2Proof.Machine

/-! ## Frames of a register write and of a store (R24, R54) -/

theorem State.getReg_setReg_self (s : State) (r : Reg) (v : Byte) : (s.setReg r v).getReg r = v :=
  (s.getReg_setReg r r v).trans (if_pos rfl)

theorem State.keepsRegsBut_setReg (s : State) (r : Reg) (v : Byte) : s.keepsRegsBut (s.setReg r v) r :=
  fun q hq => (s.getReg_setReg r q v).trans (if_neg hq)

theorem State.keepsRest_setReg (s : State) (r : Reg) (v : Byte) : s.keepsRest (s.setReg r v) :=
  ⟨⟨rfl, rfl, rfl, rfl, rfl⟩, rfl, ⟨fun _ => rfl, fun _ => rfl⟩, rfl, rfl⟩

theorem State.keepsControl_memWrite (s : State) (a : Addr) (v : Byte) : s.keepsControl (s.memWrite a v) :=
  ⟨rfl, rfl, rfl, rfl, rfl⟩

theorem State.keepsIo_memWrite (s : State) (a : Addr) (v : Byte) : s.keepsIo (s.memWrite a v) := ⟨rfl, rfl⟩

/-! ## Bytes and meaning of each family (R88, R110 to R113) -/

theorem encode_movInstr (r1 r2 : Reg) :
    encode (movInstr r1 r2) = [BitVec.ofNat 8 (0x40 + 8 * r1.code + r2.code)] := by
  cases r1 <;> cases r2 <;> rfl

theorem exec_movInstr (r1 r2 : Reg) (s : State) : exec (movInstr r1 r2) s = .next (s.setReg r1 (s.getReg r2)) := by
  cases r1 <;> cases r2 <;> rfl

theorem encode_mviInstr (r : Reg) (v : Byte) : encode (mviInstr r v) = [BitVec.ofNat 8 (0x06 + 8 * r.code), v] := by
  cases r <;> rfl

theorem exec_mviInstr (r : Reg) (v : Byte) (s : State) : exec (mviInstr r v) s = .next (s.setReg r v) := by
  cases r <;> rfl

theorem exec_lda (a : Addr) (s : State) : exec (.lda a) s = .next (s.setReg .a (s.memRead a)) := rfl

theorem exec_sta (a : Addr) (s : State) : exec (.sta a) s = .next (s.memWrite a (s.getReg .a)) := rfl

/-! ## The statements -/

/-- Settles O32: MOV is one register write (`exec_movInstr`), so its frame is that of `setReg`; writing a register's own
value back changes nothing. -/
theorem movCopiesTheSourceRegister : Obligations.MovCopiesTheSourceRegister := by
  intro r1 r2 s
  refine ⟨encode_movInstr r1 r2, _, exec_movInstr r1 r2 s, s.getReg_setReg_self r1 _, s.keepsRegsBut_setReg r1 _,
    s.setReg_flags r1 _, s.setReg_pc r1 _, s.keepsRest_setReg r1 _, ?_⟩
  rintro rfl
  exact s.setReg_getReg_self r1

/-- Settles O33: MVI is one register write (`exec_mviInstr`). -/
theorem mviLoadsTheImmediate : Obligations.MviLoadsTheImmediate := fun r v s =>
  ⟨encode_mviInstr r v, _, exec_mviInstr r v s, s.getReg_setReg_self r v, s.keepsRegsBut_setReg r v, s.setReg_flags r v,
    s.setReg_pc r v, s.keepsRest_setReg r v⟩

/-- Settles O34: LDA is one register write of the routed cell's byte (`exec_lda`). -/
theorem ldaLoadsThroughTheController : Obligations.LdaLoadsThroughTheController := fun a s =>
  ⟨rfl, _, exec_lda a s, s.getReg_setReg_self .a _, s.keepsRegsBut_setReg .a _, s.setReg_flags .a _, s.setReg_pc .a _,
    s.keepsRest_setReg .a _⟩

/-- Settles O35: STA is one write through the controller (`exec_sta`), and what a write stores and keeps is O12
(`memWriteChangesOneCell`). -/
theorem staStoresOneByteThroughTheController : Obligations.StaStoresOneByteThroughTheController := by
  intro a s hm
  obtain ⟨hcell, hothers, hread, -, -⟩ := memWriteChangesOneCell s a (s.getReg .a) hm
  exact ⟨rfl, _, exec_sta a s, hcell, (hread a).trans (if_pos rfl), hothers, fun b hb => (hread b).trans (if_neg hb),
    s.memWrite_regs a _, s.memWrite_flags a _, s.memWrite_pc a _, s.keepsControl_memWrite a _, s.memWrite_bank a _,
    s.keepsIo_memWrite a _⟩

end Sys2Proof.Machine
end

section
/-! SUPPORT. The proofs of the statements about flags and arithmetic (42_arithmetic.md): the flag computation unit (R120 to
R122), what writing the accumulator leaves unchanged, then ADD (R123), ADC (R124), SUB (R125) and SBB (R126). -/

namespace Sys2Proof.Machine

/-! ## `SetZSP` (R120) -/

theorem popcount_eq_countP (v : Byte) : popcount v = (List.range 8).countP (fun k => v.getLsbD k) := by
  have hrange : List.range 8 = [0, 1, 2, 3, 4, 5, 6, 7] := rfl
  simp only [hrange, List.countP_cons, List.countP_nil, popcount, Bool.toNat, Bool.cond_eq_ite]
  omega

theorem getLsbD_seven_iff {r : Byte} : r.getLsbD 7 = true ↔ 128 ≤ r.toNat := by
  rw [BitVec.getLsbD_eq_getElem (by decide), getElem_seven, decide_eq_true_iff]

/-- The parity flag counts the bits of the result (`popcount_eq_countP`) and the sign flag is its bit 7. -/
theorem setZSP_zspOf (f : Flags) (r : Byte) : (setZSP f r).zspOf r := by
  refine ⟨?_, getLsbD_seven_iff, ?_⟩
  · rw [setZSP_z, decide_eq_true_iff, ← BitVec.toNat_inj]
    rfl
  · rw [setZSP_p, decide_eq_true_iff, popcount_eq_countP]

/-- Settles O36: `Z`, `S`, `P` by `setZSP_zspOf`; the other two flags are the old ones. -/
theorem setZspWritesThreeFlagsFromTheResult : Obligations.SetZspWritesThreeFlagsFromTheResult := fun f r =>
  ⟨setZSP_zspOf f r, setZSP_s f r, setZSP_cy f r, setZSP_ac f r⟩

/-! ## `AddCore` and `SubCore` (R121, R122) -/

theorem addCore_cy_iff (a b : Byte) (cin : Bool) :
    (addCore a b cin).2.cy = true ↔ a.toNat + b.toNat + cin.toNat > 255 :=
  decide_eq_true_iff

theorem addCore_ac_iff (a b : Byte) (cin : Bool) :
    (addCore a b cin).2.ac = true ↔ a.toNat % 16 + b.toNat % 16 + cin.toNat > 15 :=
  decide_eq_true_iff

theorem addCore_zspOf (a b : Byte) (cin : Bool) : (addCore a b cin).2.zspOf (addCore a b cin).1 :=
  setZSP_zspOf _ _

/-- A natural difference is negative exactly when the subtrahend is larger. -/
theorem decide_sub_sub_neg_iff (x y z : Nat) : decide ((x : Int) - y - z < 0) = true ↔ x < y + z := by
  rw [decide_eq_true_iff]
  omega

theorem subCore_cy_iff (a b : Byte) (bin : Bool) :
    (subCore a b bin).2.cy = true ↔ a.toNat < b.toNat + bin.toNat :=
  decide_sub_sub_neg_iff _ _ _

theorem subCore_ac_iff (a b : Byte) (bin : Bool) :
    (subCore a b bin).2.ac = true ↔ a.toNat % 16 < b.toNat % 16 + bin.toNat :=
  decide_sub_sub_neg_iff (lowNibble a) (lowNibble b) _

theorem subCore_zspOf (a b : Byte) (bin : Bool) : (subCore a b bin).2.zspOf (subCore a b bin).1 :=
  setZSP_zspOf _ _

/-- Settles O37: the result and each flag of `AddCore` by its own lemma. -/
theorem adderComputesSumAndFiveFlags : Obligations.AdderComputesSumAndFiveFlags := fun a b cin =>
  ⟨addCore_result a b cin, addCore_cy_iff a b cin, addCore_ac_iff a b cin, addCore_zspOf a b cin⟩

/-- Settles O38: the result and each flag of `SubCore` by its own lemma; the two borrows are negative differences
(`decide_sub_sub_neg_iff`). -/
theorem subtractorComputesDifferenceAndFiveFlags : Obligations.SubtractorComputesDifferenceAndFiveFlags := fun a b bin =>
  ⟨subCore_result a b bin, subCore_cy_iff a b bin, subCore_ac_iff a b bin, subCore_zspOf a b bin⟩

/-! ## Writing the accumulator and the flags -/

@[simp] theorem State.writeAcc_getReg_a (s : State) (out : Byte × Flags) : (s.writeAcc out).getReg .a = out.1 :=
  s.getReg_setReg_self .a out.1

@[simp] theorem State.writeAcc_flags (s : State) (out : Byte × Flags) : (s.writeAcc out).flags = out.2 := rfl

/-- Nothing but `A` and the flags changes; the flags are no register and no part of the rest, so this is the frame of the
register write. -/
theorem State.writeAcc_frame (s : State) (out : Byte × Flags) :
    s.keepsRegsBut (s.writeAcc out) .a ∧ (s.writeAcc out).pc = s.pc ∧ s.keepsRest (s.writeAcc out) :=
  ⟨s.keepsRegsBut_setReg .a out.1, s.setReg_pc .a out.1, s.keepsRest_setReg .a out.1⟩

/-! ## Bytes and meaning of each family (R88, R123 to R126) -/

theorem encode_addInstr (r : Reg) : encode (addInstr r) = [BitVec.ofNat 8 (0x80 + r.code)] := by
  cases r <;> rfl

theorem encode_adcInstr (r : Reg) : encode (adcInstr r) = [BitVec.ofNat 8 (0x88 + r.code)] := by
  cases r <;> rfl

theorem encode_subInstr (r : Reg) : encode (subInstr r) = [BitVec.ofNat 8 (0x90 + r.code)] := by
  cases r <;> rfl

theorem encode_sbbInstr (r : Reg) : encode (sbbInstr r) = [BitVec.ofNat 8 (0x98 + r.code)] := by
  cases r <;> rfl

theorem exec_addInstr (r : Reg) (s : State) :
    exec (addInstr r) s = .next (s.writeAcc (addCore (s.getReg .a) (s.getReg r) false)) := by
  cases r <;> rfl

theorem exec_adcInstr (r : Reg) (s : State) :
    exec (adcInstr r) s = .next (s.writeAcc (addCore (s.getReg .a) (s.getReg r) s.flags.cy)) := by
  cases r <;> rfl

theorem exec_subInstr (r : Reg) (s : State) :
    exec (subInstr r) s = .next (s.writeAcc (subCore (s.getReg .a) (s.getReg r) false)) := by
  cases r <;> rfl

theorem exec_sbbInstr (r : Reg) (s : State) :
    exec (sbbInstr r) s = .next (s.writeAcc (subCore (s.getReg .a) (s.getReg r) s.flags.cy)) := by
  cases r <;> rfl

/-! ## The statements -/

/-- Settles O40: ADD writes what `AddCore` returns (`exec_addInstr`), which O37 gives with no incoming carry. -/
theorem addWritesSumAndFiveFlags : Obligations.AddWritesSumAndFiveFlags := by
  intro r s
  obtain ⟨hsum, hcy, hac, hzsp⟩ := adderComputesSumAndFiveFlags (s.getReg .a) (s.getReg r) false
  simp only [Bool.toNat_false, Nat.add_zero] at hsum hcy hac
  refine ⟨encode_addInstr r, _, exec_addInstr r s, ?_⟩
  rw [State.writeAcc_getReg_a, State.writeAcc_flags]
  exact ⟨hsum, hcy, hac, hzsp, s.writeAcc_frame _⟩

/-- Settles O41: ADC writes what `AddCore` returns (`exec_adcInstr`), which O37 gives with the old `CY`. -/
theorem adcAddsTheIncomingCarry : Obligations.AdcAddsTheIncomingCarry := by
  intro r s
  obtain ⟨hsum, hcy, hac, hzsp⟩ := adderComputesSumAndFiveFlags (s.getReg .a) (s.getReg r) s.flags.cy
  refine ⟨encode_adcInstr r, _, exec_adcInstr r s, ?_⟩
  rw [State.writeAcc_getReg_a, State.writeAcc_flags]
  exact ⟨hsum, hcy, hac, hzsp, s.writeAcc_frame _⟩

/-- Settles O42: SUB writes what `SubCore` returns (`exec_subInstr`), which O38 gives with no incoming borrow. -/
theorem subWritesDifferenceAndFiveFlags : Obligations.SubWritesDifferenceAndFiveFlags := by
  intro r s
  obtain ⟨hdiff, hcy, hac, hzsp⟩ := subtractorComputesDifferenceAndFiveFlags (s.getReg .a) (s.getReg r) false
  simp only [Bool.toNat_false, Nat.add_zero, Int.natCast_zero, Int.sub_zero] at hdiff hcy hac
  refine ⟨encode_subInstr r, _, exec_subInstr r s, ?_⟩
  rw [State.writeAcc_getReg_a, State.writeAcc_flags]
  exact ⟨hdiff, hcy, hac, hzsp, s.writeAcc_frame _⟩

/-- Settles O43: SBB writes what `SubCore` returns (`exec_sbbInstr`), which O38 gives with the old `CY`. -/
theorem sbbSubtractsTheIncomingBorrow : Obligations.SbbSubtractsTheIncomingBorrow := by
  intro r s
  obtain ⟨hdiff, hcy, hac, hzsp⟩ := subtractorComputesDifferenceAndFiveFlags (s.getReg .a) (s.getReg r) s.flags.cy
  refine ⟨encode_sbbInstr r, _, exec_sbbInstr r s, ?_⟩
  rw [State.writeAcc_getReg_a, State.writeAcc_flags]
  exact ⟨hdiff, hcy, hac, hzsp, s.writeAcc_frame _⟩

end Sys2Proof.Machine
end

section
/-! SUPPORT. The proofs of the statements about increment and decrement (43_inr_dcr.md): what `incCore` and `decCore`
return, what writing a register and the flags leaves unchanged, then INR (R130) and DCR (R131). -/

namespace Sys2Proof.Machine

/-! ## `incCore` and `decCore` (R130, R131) -/

theorem incCore_toNat (v : Byte) (f : Flags) : (incCore v f).1.toNat = (v.toNat + 1) % 256 := by
  rw [incCore_result]
  exact BitVec.toNat_add v 1

theorem decCore_toNat (v : Byte) (f : Flags) : (decCore v f).1.toNat = (v.toNat + 255) % 256 := by
  rw [decCore_result, Nat.add_comm]
  exact BitVec.toNat_sub v 1

/-- Plus one carries out of the low nibble only from 0xF. -/
theorem incCore_ac_iff (v : Byte) (f : Flags) : (incCore v f).2.ac = true ↔ v.toNat % 16 = 15 := by
  have hcarry : (incCore v f).2.ac = true ↔ v.toNat % 16 + 1 > 15 := decide_eq_true_iff
  exact hcarry.trans (by omega)

/-- Minus one borrows into the low nibble only at 0x0. -/
theorem decCore_ac_iff (v : Byte) (f : Flags) : (decCore v f).2.ac = true ↔ v.toNat % 16 = 0 := by
  have hborrow : (decCore v f).2.ac = true ↔ ((v.toNat % 16 : Nat) : Int) - 1 < 0 := decide_eq_true_iff
  exact hborrow.trans (by omega)

theorem incCore_cy (v : Byte) (f : Flags) : (incCore v f).2.cy = f.cy := setZSP_cy _ _

theorem decCore_cy (v : Byte) (f : Flags) : (decCore v f).2.cy = f.cy := setZSP_cy _ _

theorem incCore_zspOf (v : Byte) (f : Flags) : (incCore v f).2.zspOf (incCore v f).1 := setZSP_zspOf _ _

theorem decCore_zspOf (v : Byte) (f : Flags) : (decCore v f).2.zspOf (decCore v f).1 := setZSP_zspOf _ _

/-! ## Writing a register and the flags -/

/-- The flags are no register and no part of the rest, so this is the frame of the register write. -/
theorem State.setReg_setFlags_frame (s : State) (r : Reg) (v : Byte) (f : Flags) :
    s.keepsRegsBut ((s.setReg r v).setFlags f) r ∧ ((s.setReg r v).setFlags f).pc = s.pc ∧
      s.keepsRest ((s.setReg r v).setFlags f) :=
  ⟨s.keepsRegsBut_setReg r v, s.setReg_pc r v, s.keepsRest_setReg r v⟩

/-! ## Bytes and meaning of each family (R88, R130, R131) -/

theorem encode_inrInstr (r : Reg) : encode (inrInstr r) = [BitVec.ofNat 8 (0x04 + 8 * r.code)] := by
  cases r <;> rfl

theorem encode_dcrInstr (r : Reg) : encode (dcrInstr r) = [BitVec.ofNat 8 (0x05 + 8 * r.code)] := by
  cases r <;> rfl

theorem exec_inrInstr (r : Reg) (s : State) :
    exec (inrInstr r) s =
      .next ((s.setReg r (incCore (s.getReg r) s.flags).1).setFlags (incCore (s.getReg r) s.flags).2) := by
  cases r <;> rfl

theorem exec_dcrInstr (r : Reg) (s : State) :
    exec (dcrInstr r) s =
      .next ((s.setReg r (decCore (s.getReg r) s.flags).1).setFlags (decCore (s.getReg r) s.flags).2) := by
  cases r <;> rfl

/-! ## The statements -/

/-- Settles O44: INR writes what `incCore` returns (`exec_inrInstr`): its result and each flag by its own lemma. -/
theorem inrIncrementsAndKeepsCarry : Obligations.InrIncrementsAndKeepsCarry := by
  intro r s
  refine ⟨encode_inrInstr r, _, exec_inrInstr r s, ?_⟩
  rw [State.setFlags_getReg, State.getReg_setReg_self, State.setFlags_flags]
  exact ⟨incCore_toNat _ _, incCore_ac_iff _ _, incCore_cy _ _, incCore_zspOf _ _, s.setReg_setFlags_frame r _ _⟩

/-- Settles O45: DCR writes what `decCore` returns (`exec_dcrInstr`): its result and each flag by its own lemma. -/
theorem dcrDecrementsAndKeepsCarry : Obligations.DcrDecrementsAndKeepsCarry := by
  intro r s
  refine ⟨encode_dcrInstr r, _, exec_dcrInstr r s, ?_⟩
  rw [State.setFlags_getReg, State.getReg_setReg_self, State.setFlags_flags]
  exact ⟨decCore_toNat _ _, decCore_ac_iff _ _, decCore_cy _ _, decCore_zspOf _ _, s.setReg_setFlags_frame r _ _⟩

end Sys2Proof.Machine
end

section
/-! SUPPORT. The proof of the statement about JMP (44_jump.md): its bytes and its meaning. -/

namespace Sys2Proof.Machine

/-! ## Bytes and meaning (R88, R135) -/

theorem encode_jmp (a : Addr) : encode (.jmp a) = [0xC3, loByte a, hiByte a] := rfl

theorem exec_jmp (a : Addr) (s : State) : exec (.jmp a) s = .next (s.setPC a) := rfl

/-! ## The statement -/

/-- Settles O46: JMP writes `pc` alone (`exec_jmp`), and `setPC` is the record update the statement names. -/
theorem jmpSetsPcToItsOperand : Obligations.JmpSetsPcToItsOperand := fun a s =>
  ⟨encode_jmp a, exec_jmp a s⟩

end Sys2Proof.Machine
end

section
/-! SUPPORT. The proofs of the statements about the bank-select port (45_io.md): OUT 0xFF (R140) and IN 0xFF (R141), each
from its bytes, its meaning and what the port's two effects (R144) do. -/

namespace Sys2Proof.Machine

/-! ## The bank-select port (R144) -/

theorem State.keepsControl_writeBankPort (s : State) (v : Byte) : s.keepsControl (s.writeBankPort v) :=
  ⟨rfl, rfl, rfl, rfl, rfl⟩

theorem State.keepsIo_writeBankPort (s : State) (v : Byte) : s.keepsIo (s.writeBankPort v) := ⟨rfl, rfl⟩

/-- While switching is enabled, a window address names a cell of the bank just written to the port. -/
theorem State.route_writeBankPort {s : State} {a : Addr} (v : Byte) (he : s.bankEn = true)
    (ha : inWindow s.cfg a = true) :
    (s.writeBankPort v).route a = .bank (v.toNat % s.cfg.bankCount) (windowOffset s.cfg a) :=
  State.route_enabled (s := s.writeBankPort v) ha he

theorem State.memRead_writeBankPort {s : State} {a : Addr} (v : Byte) (he : s.bankEn = true)
    (ha : inWindow s.cfg a = true) :
    (s.writeBankPort v).memRead a = s.mem.readCell (.bank (v.toNat % s.cfg.bankCount) (windowOffset s.cfg a)) :=
  congrArg s.mem.readCell (State.route_writeBankPort v he ha)

/-- No legal configuration has more than 256 banks (R6), so a legal bank index fits the byte the port reads as. -/
theorem State.readBankPort_toNat {s : State} (hcfg : s.cfg.wf) (hbank : s.bank < s.cfg.bankCount) :
    s.readBankPort.toNat = s.bank := by
  obtain ⟨⟨-, hcount⟩, -⟩ := hcfg
  exact (BitVec.toNat_ofNat s.bank 8).trans (Nat.mod_eq_of_lt (Nat.lt_of_lt_of_le hbank hcount))

/-! ## Bytes and meaning (R88, R140, R141) -/

theorem encode_outPort (p : Byte) : encode (.outPort p) = [0xD3, p] := rfl

theorem encode_inPort (p : Byte) : encode (.inPort p) = [0xDB, p] := rfl

/-- IN 0xFF is one register write of the bank-select port's read value (R141). -/
theorem exec_inPort_bankPort (s : State) : exec (.inPort 0xFF) s = .next (s.setReg .a s.readBankPort) := rfl

/-! ## The statements -/

/-- Settles O47: OUT 0xFF is the write effect of the port (`exec_outPort_bankPort`), which changes `bank` alone and so
re-routes the window (`State.memRead_writeBankPort`). -/
theorem outToPortFFSelectsTheBank : Obligations.OutToPortFFSelectsTheBank := fun s =>
  ⟨encode_outPort 0xFF, _, exec_outPort_bankPort s, s.writeBankPort_bank _, s.writeBankPort_regs _,
    s.writeBankPort_flags _, s.writeBankPort_pc _, s.keepsControl_writeBankPort _, fun _ => rfl,
    s.keepsIo_writeBankPort _, fun _ he ha => State.memRead_writeBankPort _ he ha⟩

/-- Settles O49: IN 0xFF is one register write (`exec_inPort_bankPort`), and the byte written is the bank index by
`State.readBankPort_toNat`. -/
theorem inFromPortFFReadsTheBank : Obligations.InFromPortFFReadsTheBank := by
  intro s hcfg hbank
  refine ⟨encode_inPort 0xFF, _, exec_inPort_bankPort s, ?_, s.keepsRegsBut_setReg .a _, s.setReg_flags .a _,
    s.setReg_pc .a _, s.keepsRest_setReg .a _⟩
  rw [State.getReg_setReg_self]
  exact State.readBankPort_toNat hcfg hbank

end Sys2Proof.Machine
end

section
/-! SUPPORT. The proofs of the statements about the stack primitives (46_stack_primitives.md): `Push16` (R150) as two
writes through the controller, `Pop16` (R151) as two reads, and what a pop reads after a push. -/

namespace Sys2Proof.Machine

/-! ## The two stack addresses (modulo 65536) -/

theorem sub_one_ne_sub_two (x : Addr) : x - 1 ≠ x - 2 := by
  bv_omega

theorem sub_two_add_one (x : Addr) : x - 2 + 1 = x - 1 := by
  bv_omega

/-! ## `Push16` (R150) -/

/-- `State.push16_eq` by the state's operations, so that the rules of a write through the controller apply. -/
theorem State.push16_eq_memWrite (s : State) (v : Addr) : s.push16 v =
    ((s.memWrite (s.sp - 1) (hiByte v)).memWrite (s.sp - 2) (loByte v)).setSP (s.sp - 2) :=
  s.push16_eq v

@[simp] theorem State.push16_sp (s : State) (v : Addr) : (s.push16 v).sp = s.sp - 2 := by
  rw [State.push16_eq]

theorem State.push16_frame (s : State) (v : Addr) :
    s.push16 v = { s with sp := (s.push16 v).sp, mem := (s.push16 v).mem } := by
  rw [State.push16_eq]

theorem State.wf_push16 {s : State} (hm : s.mem.wf) (v : Addr) : (s.push16 v).mem.wf := by
  rw [State.push16_eq]
  exact State.wf_memWrite (State.wf_memWrite hm _ _) _ _

theorem State.readCell_push16_other {s : State} (hm : s.mem.wf) (v : Addr) {c : StoreCell}
    (hhi : c ≠ s.route (s.sp - 1)) (hlo : c ≠ s.route (s.sp - 2)) :
    (s.push16 v).mem.readCell c = s.mem.readCell c := by
  rw [State.push16_eq, State.readCell_memWrite (State.wf_memWrite hm _ _), State.memWrite_route, if_neg hlo,
    State.readCell_memWrite hm, if_neg hhi]

theorem State.memRead_push16_low {s : State} (hm : s.mem.wf) (v : Addr) :
    (s.push16 v).memRead (s.sp - 2) = loByte v := by
  rw [State.push16_eq_memWrite, State.setSP_memRead, State.memRead_memWrite (State.wf_memWrite hm _ _), if_pos rfl]

/-- The high byte survives the second write, which goes to another address. -/
theorem State.memRead_push16_high {s : State} (hm : s.mem.wf) (v : Addr) :
    (s.push16 v).memRead (s.sp - 1) = hiByte v := by
  rw [State.push16_eq_memWrite, State.setSP_memRead, State.memRead_memWrite (State.wf_memWrite hm _ _),
    if_neg (sub_one_ne_sub_two s.sp), State.memRead_memWrite hm, if_pos rfl]

/-! ## `Pop16` (R151) -/

theorem State.pop16_value_toNat (s : State) :
    s.pop16.1.toNat = (s.memRead (s.sp + 1)).toNat * 256 + (s.memRead s.sp).toNat := by
  rw [State.pop16_eq, joinBytes_toNat]

theorem State.pop16_state (s : State) : s.pop16.2 = s.setSP (s.sp + 2) := by
  rw [State.pop16_eq]

/-- A pop reads the two bytes of the push before it where the push stored them. -/
theorem State.pop16_push16_value {s : State} (hm : s.mem.wf) (v : Addr) : (s.push16 v).pop16.1 = v := by
  rw [State.pop16_eq, State.push16_sp, sub_two_add_one, State.memRead_push16_high hm, State.memRead_push16_low hm,
    joinBytes_hiByte_loByte]

theorem State.pop16_push16_sp (s : State) (v : Addr) : (s.push16 v).pop16.2.sp = s.sp := by
  rw [State.pop16_state, State.setSP_sp, State.push16_sp, BitVec.sub_add_cancel]

/-! ## The statements -/

/-- Settles O52: a push is two writes through the controller at the two addresses below `sp`
(`State.push16_eq_memWrite`), and the second leaves the byte of the first (`State.memRead_push16_high`). -/
theorem pushStoresHighByteAboveLowByte : Obligations.PushStoresHighByteAboveLowByte := by
  intro s v hm
  have hhigh : ((s.push16 v).memRead (s.sp - 1)).toNat = v.toNat / 256 := by
    rw [State.memRead_push16_high hm, hiByte_toNat]
  have hlow : ((s.push16 v).memRead (s.sp - 2)).toNat = v.toNat % 256 := by
    rw [State.memRead_push16_low hm, loByte_toNat]
  exact ⟨s.push16_sp v, hhigh, hlow, fun _ => State.readCell_push16_other hm v, s.push16_frame v, State.wf_push16 hm v⟩

/-- Settles O53: a pop is two reads from `sp` up (`State.pop16_eq`), and after a push they meet the pushed bytes
(`State.pop16_push16_value`). -/
theorem popReadsLowByteThenHighByte : Obligations.PopReadsLowByteThenHighByte := fun s =>
  ⟨s.pop16_value_toNat, s.pop16_state, fun v hm => ⟨State.pop16_push16_value hm v, s.pop16_push16_sp v⟩⟩

end Sys2Proof.Machine
end

section
/-! SUPPORT. The proofs of the statements about the host operations (48_host_operations.md): the stack pair (R173), program
loading as a list of writes through the controller (R163), memory access (R164, R165), bank selection (R167), what no
operation changes (R169), reset (R161) and the debug setters (R172). -/

namespace Sys2Proof.Machine

/-! ## The host's push and pop (R173) -/

theorem hostOp_push16 (n : Nat) (s : State) : hostOp (.push16 n) s = .next (.done, s.push16 (BitVec.ofNat 16 n)) := rfl

theorem hostOp_pop16 (s : State) : hostOp .pop16 s = .next (.word s.pop16.1, s.pop16.2) := rfl

/-- A pop puts `sp` back where the push found it, so only the two stored bytes remain of the pair. -/
theorem State.pop16_push16_frame (s : State) (v : Addr) :
    (s.push16 v).pop16.2 = { s with mem := (s.push16 v).pop16.2.mem } := by
  have hsp : (s.push16 v).sp + 2 = s.sp := by rw [State.push16_sp, BitVec.sub_add_cancel]
  rw [State.pop16_state, hsp, State.push16_frame]
  rfl

/-- Settles O54: the value and `sp` are those of `Pop16` after `Push16` (`State.pop16_push16_value`,
`State.pop16_push16_sp`), and the pair touches nothing else but memory (`State.pop16_push16_frame`). -/
theorem pushThenPopReturnsTheValue : Obligations.PushThenPopReturnsTheValue := by
  intro s n hm
  have hpop : hostOp .pop16 (s.push16 (BitVec.ofNat 16 n)) =
      .next (.word (BitVec.ofNat 16 n), (s.push16 (BitVec.ofNat 16 n)).pop16.2) := by
    rw [hostOp_pop16, State.pop16_push16_value hm]
  exact ⟨_, _, hostOp_push16 n s, hpop, s.pop16_push16_sp _, s.pop16_push16_frame _⟩

/-! ## Storing a list of bytes (R163) -/

theorem State.memWriteList_cons (s : State) (a : Addr) (v : Byte) (vs : List Byte) :
    s.memWriteList a (v :: vs) = (s.memWrite a v).memWriteList (a + 1) vs := rfl

/-- The addresses of a list's tail, counted from the second address and from the first. -/
theorem add_one_add_ofNat (a : Addr) (k : Nat) : a + 1 + BitVec.ofNat 16 k = a + BitVec.ofNat 16 (k + 1) := by
  rw [BitVec.add_assoc, Nat.add_comm k 1, BitVec.ofNat_add]
  rfl

/-- Fewer than 65536 addresses on, the first one has not come round again. -/
theorem ne_add_ofNat (a : Addr) {k : Nat} (hpos : 0 < k) (hk : k < 65536) : a ≠ a + BitVec.ofNat 16 k := by
  bv_omega

/-- A cell that none of the addresses names keeps its content. -/
theorem State.readCell_memWriteList_other {s : State} (hm : s.mem.wf) (a : Addr) (vs : List Byte) {c : StoreCell}
    (hc : ∀ k, k < vs.length → c ≠ s.route (a + BitVec.ofNat 16 k)) :
    (s.memWriteList a vs).mem.readCell c = s.mem.readCell c := by
  induction vs generalizing s a with
  | nil => rfl
  | cons v vs ih =>
    have hhead : c ≠ s.route a := by simpa using hc 0 (Nat.succ_pos _)
    have htail : ∀ k, k < vs.length → c ≠ (s.memWrite a v).route (a + 1 + BitVec.ofNat 16 k) := fun k hk => by
      rw [State.memWrite_route, add_one_add_ofNat]
      exact hc (k + 1) (Nat.succ_lt_succ hk)
    rw [State.memWriteList_cons, ih (State.wf_memWrite hm a v) (a + 1) htail, State.readCell_memWrite hm, if_neg hhead]

/-- An address that is none of those stored to reads as before, since no other address names its cell. -/
theorem State.memRead_memWriteList_other {s : State} (hm : s.mem.wf) (a : Addr) (vs : List Byte) {b : Addr}
    (hb : ∀ k, k < vs.length → b ≠ a + BitVec.ofNat 16 k) : (s.memWriteList a vs).memRead b = s.memRead b := by
  rw [State.memRead, State.memWriteList_route]
  exact State.readCell_memWriteList_other hm a vs fun k hk h => hb k hk (s.route_inj h)

/-- Each byte is read back at its own address: the later writes go to other addresses as long as the list does not go all
the way round the address space. -/
theorem State.memRead_memWriteList {s : State} (hm : s.mem.wf) (a : Addr) (vs : List Byte) (hlen : vs.length ≤ 65536)
    (k : Nat) (hk : k < vs.length) : (s.memWriteList a vs).memRead (a + BitVec.ofNat 16 k) = vs[k] := by
  induction vs generalizing s a k with
  | nil => exact absurd hk (Nat.not_lt_zero k)
  | cons v vs ih =>
    have hm' := State.wf_memWrite hm a v
    rw [List.length_cons] at hlen
    rw [State.memWriteList_cons]
    cases k with
    | zero =>
      have hlater : ∀ j, j < vs.length → a ≠ a + 1 + BitVec.ofNat 16 j := fun j hj => by
        rw [add_one_add_ofNat]
        exact ne_add_ofNat a (Nat.succ_pos j) (by omega)
      have hhead : a + BitVec.ofNat 16 0 = a := BitVec.add_zero a
      rw [hhead, State.memRead_memWriteList_other hm' (a + 1) vs hlater,
        State.memRead_memWrite hm, if_pos rfl, List.getElem_cons_zero]
    | succ k =>
      rw [← add_one_add_ofNat]
      exact ih hm' (a + 1) (by omega) k (Nat.lt_of_succ_lt_succ hk)

theorem hostOp_loadProgram_overflow {s : State} {bytes : List Byte} {start : Addr}
    (h : start.toNat + bytes.length > 65536) :
    hostOp (.loadProgram bytes start) s = .next (.rejected .programLoadOverflow, s) := by
  have hl : s.loadProgram bytes start = .error .programLoadOverflow := if_pos h
  simp only [hostOp, hl]

theorem hostOp_loadProgram_fits {s : State} {bytes : List Byte} {start : Addr}
    (h : start.toNat + bytes.length ≤ 65536) :
    hostOp (.loadProgram bytes start) s = .next (.done, (s.memWriteList start bytes).setPC start) := by
  have hl : s.loadProgram bytes start = .ok ((s.memWriteList start bytes).setPC start) := if_neg (Nat.not_lt.mpr h)
  simp only [hostOp, hl]

theorem State.memWriteList_setPC_frame (s : State) (bytes : List Byte) (start : Addr) :
    (s.memWriteList start bytes).setPC start =
      { s with pc := start, mem := ((s.memWriteList start bytes).setPC start).mem } := by
  rw [State.memWriteList_eq]
  rfl

/-- Settles O55: an accepted load stores the list (`State.memRead_memWriteList`), leaves every other address and cell
alone, and then sets `pc`, at which neither reading nor routing looks. -/
theorem loadProgramInstallsOrRejectsWhole : Obligations.LoadProgramInstallsOrRejectsWhole := by
  intro s bytes start
  refine ⟨hostOp_loadProgram_overflow, fun hfits hm => ?_⟩
  have hlen : bytes.length ≤ 65536 := by omega
  exact ⟨_, hostOp_loadProgram_fits hfits, rfl, State.memRead_memWriteList hm start bytes hlen,
    fun _ ha => State.memRead_memWriteList_other hm start bytes ha,
    fun _ hc => State.readCell_memWriteList_other hm start bytes hc, s.memWriteList_setPC_frame bytes start⟩

/-! ## Memory access (R164, R165) -/

theorem hostOp_getMemory (a : Addr) (s : State) :
    hostOp (.getMemory a) s = .next (.byte (s.mem.readCell (s.route a)), s) := rfl

theorem hostOp_setMemory (a : Addr) (v : Byte) (s : State) :
    hostOp (.setMemory a v) s = .next (.done, s.memWrite a v) := rfl

/-- Settles O56: the two operations are a read and a write through the controller, and what a write stores and keeps is
O12 (`memWriteChangesOneCell`). -/
theorem hostMemoryAccessIsRouted : Obligations.HostMemoryAccessIsRouted := by
  intro s a v hm
  obtain ⟨hcell, hothers, -, hframe, -⟩ := memWriteChangesOneCell s a v hm
  exact ⟨hostOp_getMemory a s, _, hostOp_setMemory a v s, hcell, hothers, hframe⟩

/-! ## Bank selection (R167) -/

theorem hostOp_setBank (n : Nat) (s : State) : hostOp (.setBank n) s = .next (.done, s.hostSetBank n) := rfl

theorem State.hostSetBank_of_ge {s : State} {n : Nat} (h : n ≥ s.cfg.bankCount) :
    s.hostSetBank n = s.selectBank (s.cfg.bankCount - 1) := if_pos h

theorem State.hostSetBank_of_lt {s : State} {n : Nat} (h : n < s.cfg.bankCount) : s.hostSetBank n = s.selectBank n :=
  if_neg (Nat.not_le.mpr h)

/-- Settles O57: the two cases of `hostSetBank`, each a `selectBank`, which is the record update the statement names. -/
theorem setBankClampsTheIndex : Obligations.SetBankClampsTheIndex := by
  intro s n
  rw [hostOp_setBank]
  refine ⟨fun h => ?_, fun h => ?_⟩
  · rw [State.hostSetBank_of_ge h]
    rfl
  · rw [State.hostSetBank_of_lt h]
    rfl

/-! ## The accessors, and the parameters no operation changes (R168, R169, R171) -/

theorem step_keeps_cfg {s t : State} (h : step s = .next t) : t.cfg = s.cfg := by
  obtain ⟨-, rfl⟩ | ⟨-, a, -, hc⟩ := step_cases h
  · rfl
  · exact hc.cfg

@[simp] theorem State.memWriteList_cfg (s : State) (a : Addr) (vs : List Byte) : (s.memWriteList a vs).cfg = s.cfg := by
  rw [State.memWriteList_eq]

@[simp] theorem State.hostSetBank_cfg (s : State) (k : Nat) : (s.hostSetBank k).cfg = s.cfg := by
  obtain h | h := Nat.lt_or_ge k s.cfg.bankCount
  · rw [State.hostSetBank_of_lt h, State.selectBank_cfg]
  · rw [State.hostSetBank_of_ge h, State.selectBank_cfg]

/-- No host operation changes the parameters, `reset` and `step` included (R6, R169). -/
theorem hostOp_keeps_cfg {op : HostOp} {s t : State} {r : Reply} (h : hostOp op s = .next (r, t)) : t.cfg = s.cfg := by
  cases op
  case step => exact step_keeps_cfg (step_of_hostOp_step h)
  case loadProgram bytes start =>
    obtain ⟨r', t', ht', hcases⟩ := hostOp_loadProgram s bytes start
    rw [ht'] at h
    cases h
    obtain rfl | rfl := hcases
    · rfl
    · exact s.memWriteList_cfg start bytes
  case setBank k =>
    cases h
    exact s.hostSetBank_cfg k
  all_goals
    cases h
    rfl

theorem hostOp_getBankCount (s : State) : hostOp .getBankCount s = .next (.number s.cfg.bankCount, s) := rfl

/-- Settles O58: each accessor is one arm of `hostOp`, the value IN 0xFF loads is O49 (`inFromPortFFReadsTheBank`), and the
parameters stay by `hostOp_keeps_cfg`. -/
theorem accessorsReturnTheValueAndChangeNothing : Obligations.AccessorsReturnTheValueAndChangeNothing := by
  intro s
  refine ⟨rfl, rfl, fun hcfg hbank => ?_, rfl, rfl, rfl, rfl, rfl, fun op r t h => ?_⟩
  · obtain ⟨-, t, ht, hvalue, -⟩ := inFromPortFFReadsTheBank s hcfg hbank
    exact ⟨t, ht, hvalue⟩
  · have hcfg := hostOp_keeps_cfg h
    exact ⟨hcfg, by rw [hostOp_getBankCount, hcfg]⟩

/-! ## Reset (R39, R161) -/

theorem hostOp_reset (s : State) : hostOp .reset s = .next (.done, s.hostReset) := rfl

theorem State.resetWith_getReg (c : Config) (r : Reg) : (State.resetWith c).getReg r = 0 := by
  cases r <;> rfl

theorem State.resetWith_flag (c : Config) (f : FlagName) : (State.resetWith c).flags.get f = false := by
  cases f <;> rfl

theorem State.resetWith_readCell (c : Config) (cell : StoreCell) : (State.resetWith c).mem.readCell cell = 0x00 := by
  cases cell <;> rfl

/-- Settles O1: but for the I/O fields, `hostReset` is the reset state of the configuration, whose registers, flags and
cells the three `State.resetWith` lemmas give; so is `State.reset`. -/
theorem resetLeavesEveryStateAtItsValue : Obligations.ResetLeavesEveryStateAtItsValue := by
  refine ⟨fun s => ⟨_, hostOp_reset s, ?_⟩, State.resetWith_getReg _, rfl, rfl, State.resetWith_flag _, rfl, rfl,
    fun a => State.resetWith_readCell _ _, rfl, rfl⟩
  exact ⟨State.resetWith_getReg s.cfg, rfl, rfl, State.resetWith_flag s.cfg, rfl, rfl, State.resetWith_readCell s.cfg,
    rfl, rfl, rfl, ⟨rfl, rfl⟩, hostOp_reset _⟩

/-! ## The debug setters (R172) -/

@[simp] theorem Flags.get_set (x : Flags) (f g : FlagName) (b : Bool) :
    (x.set f b).get g = if g = f then b else x.get g := by
  cases f <;> cases g <;> rfl

theorem hostOp_setReg (r : Reg) (n : Nat) (s : State) :
    hostOp (.setReg r n) s = .next (.done, s.setReg r (BitVec.ofNat 8 n)) := rfl

theorem hostOp_setPC (n : Nat) (s : State) : hostOp (.setPC n) s = .next (.done, s.setPC (BitVec.ofNat 16 n)) := rfl

theorem hostOp_setSP (n : Nat) (s : State) : hostOp (.setSP n) s = .next (.done, s.setSP (BitVec.ofNat 16 n)) := rfl

theorem hostOp_setFlag (f : FlagName) (b : Bool) (s : State) :
    hostOp (.setFlag f b) s = .next (.done, s.setFlags (s.flags.set f b)) := rfl

/-- Settles O59: each setter is one update of the state, to which the value goes as a bit vector of the item's width; the
other registers and flags are kept by `State.keepsRegsBut_setReg` and `Flags.get_set`. -/
theorem settersWriteOneItemAndGettersReadIt : Obligations.SettersWriteOneItemAndGettersReadIt := by
  intro s
  refine ⟨fun r n => ⟨_, hostOp_setReg r n s, ?_, s.keepsRegsBut_setReg r _, rfl, rfl⟩,
    fun n => ⟨_, hostOp_setPC n s, BitVec.toNat_ofNat n 16, rfl⟩,
    fun n => ⟨_, hostOp_setSP n s, BitVec.toNat_ofNat n 16, rfl⟩,
    fun f b => ⟨_, hostOp_setFlag f b s, ?_, fun g hg => ?_, rfl⟩, rfl, rfl, rfl⟩
  · rw [State.getReg_setReg_self]
    exact BitVec.toNat_ofNat n 8
  · exact (s.flags.get_set f f b).trans (if_pos rfl)
  · exact (s.flags.get_set f g b).trans (if_neg hg)

end Sys2Proof.Machine
end

section
/-! SUPPORT. The proofs of the statements about the decoder as a map (30_encoding.md): the two round trips with the encoder
(R80, R82, R88), the unrecognized bytes (R89), sample words (R92) and the lists that end too soon (R81). -/

namespace Sys2Proof

/-! ## The two round trips -/

/-- The two operand bytes of an address, low byte first, give it back. -/
theorem decode_f3_address {op : Byte} {form : Addr → Instr} (h : dispatchTable op = .f3 form) (a : Addr)
    (rest : List Byte) : decode (op :: loByte a :: hiByte a :: rest) = .ok (form a, rest) := by
  rw [decode_f3 h, joinBytes_hiByte_loByte]

/-- Settles O18: each constructor's bytes have its own row; an unrecognized byte has it because it is well-formed, and an
address operand comes back from its two bytes (`decode_f3_address`). -/
theorem decodeOfEncodeIsTheInstruction : Obligations.DecodeOfEncodeIsTheInstruction := by
  intro i rest hwf
  cases i
  case unrecognized op => exact decode_f1 (dispatchTable_unrecognized op hwf) rest
  case lda a => exact decode_f3_address (form := .lda) rfl a rest
  case sta a => exact decode_f3_address (form := .sta) rfl a rest
  case jmp a => exact decode_f3_address (form := .jmp) rfl a rest
  all_goals rfl

/-- Settles O19: an accepted list has the shape of its opcode's row (`decode_cases`), and every row agrees with the encoder
(`dispatchTable_agrees`). -/
theorem encodeOfDecodeIsTheBytes : Obligations.EncodeOfDecodeIsTheBytes := by
  intro bs tail i h
  cases bs with
  | nil => cases h
  | cons op rest =>
    have hagrees := dispatchTable_agrees op
    obtain ⟨hrow, rfl⟩ | ⟨form, b, hrow, rfl, rfl⟩ | ⟨form, lo, hi, hrow, rfl, rfl⟩ := decode_cases h <;>
      rw [hrow] at hagrees
    · obtain ⟨hwf, henc⟩ := hagrees
      exact ⟨hwf, by rw [henc]; rfl⟩
    · obtain ⟨hwf, henc⟩ := hagrees b
      exact ⟨hwf, by rw [henc]; rfl⟩
    · obtain ⟨hwf, henc⟩ := hagrees (joinBytes hi lo)
      exact ⟨hwf, by rw [henc, loByte_joinBytes, hiByte_joinBytes]; rfl⟩

/-! ## The unrecognized bytes (R89) -/

/-- Settles O21: the answer of an accepted list is well-formed (O19), which for an unrecognized byte means listed; the count
runs over the 256 bytes. -/
theorem unrecognizedBytesAreTheListedOnes : Obligations.UnrecognizedBytesAreTheListedOnes := by
  refine ⟨fun op rest => Iff.trans ⟨fun h => ?_, fun h => ?_⟩ Machine.isUnrecognized_iff, by decide +kernel⟩
  · exact (encodeOfDecodeIsTheBytes _ _ _ h).1
  · exact decode_f1 (dispatchTable_unrecognized op h) rest

/-! ## Sample words (R92, R88) -/

/-- Settles O20: the decoder evaluated on each written-out word. -/
theorem sampleWordsDecodeAsWritten : Obligations.SampleWordsDecodeAsWritten :=
  ⟨rfl, rfl, rfl, rfl, rfl, rfl, rfl, rfl, rfl, rfl, rfl, rfl, rfl, rfl, rfl, rfl, rfl, rfl⟩

/-! ## Lists that end too soon (R81) -/

/-- Settles O23: by the opcode's row, which says how many operand bytes must follow; the shorter lists are the patterns that
the decoder rejects. -/
theorem decoderRejectsOnlyListsThatEndTooSoon : Obligations.DecoderRejectsOnlyListsThatEndTooSoon := by
  refine ⟨rfl, fun op rest => ?_⟩
  unfold opcodeLength
  cases hrow : dispatchTable op with
  | f1 i => exact ⟨fun hshort => absurd hshort (by simp [TableEntry.length]), fun _ => ⟨_, _, decode_f1 hrow rest⟩⟩
  | f2 form =>
    match rest with
    | [] => exact ⟨fun _ => by simp only [decode, hrow], fun hlong => absurd hlong (by simp [TableEntry.length])⟩
    | b :: rest =>
      exact ⟨fun hshort => absurd hshort (by simp [TableEntry.length]), fun _ => ⟨_, _, decode_f2 hrow b rest⟩⟩
  | f3 form =>
    match rest with
    | [] | [_] => exact ⟨fun _ => by simp only [decode, hrow], fun hlong => absurd hlong (by simp [TableEntry.length])⟩
    | lo :: hi :: rest =>
      exact ⟨fun hshort => absurd hshort (by simp [TableEntry.length]), fun _ => ⟨_, _, decode_f3 hrow lo hi rest⟩⟩

end Sys2Proof
end

section
/-! SUPPORT. The proofs of the statements about the invariant (10_state.md R40): it holds at reset, every step and every
host operation keeps it, so it holds along every run. -/

namespace Sys2Proof.Machine

/-! ## The invariant at reset -/

theorem State.resetWith_inv {c : Config} (hc : c.wf) : (State.resetWith c).Inv := by
  obtain ⟨⟨hcount, hmax⟩, hwindow⟩ := hc
  exact ⟨⟨⟨hcount, hmax⟩, hwindow⟩, hcount, rfl, ⟨cellsWf_nil, cellsWf_nil⟩, List.forall_mem_nil _, List.forall_mem_nil _⟩

/-- Settles O3: bank 0 exists in every legal configuration, and no cell is listed. -/
theorem resetStateHasTheInvariant : Obligations.ResetStateHasTheInvariant :=
  ⟨State.resetWith_inv (by decide), fun _ hc => State.resetWith_inv hc⟩

/-! ## What keeps the invariant -/

theorem Change.inv {s t : State} (h : Change s t) (hs : s.Inv) : t.Inv := by
  obtain ⟨hcfg, hbank, hinte, hmem, hplaced⟩ := hs
  exact ⟨h.cfg ▸ hcfg, h.bank_lt hbank, h.inte.trans hinte, h.mem_wf hmem, h.mem_placed hbank hplaced⟩

/-- Settles O4: a step that does anything moves `pc`, at which the invariant does not look, and makes one `Change`. -/
theorem stepKeepsTheInvariant : Obligations.StepKeepsTheInvariant := by
  intro s t hs h
  obtain ⟨-, rfl⟩ | ⟨-, a, -, hc⟩ := step_cases h
  · exact hs
  · exact hc.inv hs

theorem State.inv_memWrite {s : State} (hs : s.Inv) (a : Addr) (v : Byte) : (s.memWrite a v).Inv :=
  (Change.store a v).inv hs

theorem State.inv_memWriteList {s : State} (hs : s.Inv) (a : Addr) (vs : List Byte) : (s.memWriteList a vs).Inv := by
  induction vs generalizing s a with
  | nil => exact hs
  | cons v vs ih => exact ih (State.inv_memWrite hs a v) (a + 1)

theorem State.inv_push16 {s : State} (hs : s.Inv) (v : Addr) : (s.push16 v).Inv := by
  rw [State.push16_eq_memWrite]
  exact State.inv_memWrite (State.inv_memWrite hs _ _) _ _

theorem State.inv_selectBank {s : State} (hs : s.Inv) {k : Nat} (hk : k < s.cfg.bankCount) : (s.selectBank k).Inv := by
  obtain ⟨hcfg, -, hrest⟩ := hs
  exact ⟨hcfg, hk, hrest⟩

/-- Clamping gives a legal index because there is at least one bank (R6). -/
theorem State.inv_hostSetBank {s : State} (hs : s.Inv) (k : Nat) : (s.hostSetBank k).Inv := by
  have ⟨⟨⟨hcount, _⟩, _⟩, _⟩ := hs
  obtain h | h := Nat.lt_or_ge k s.cfg.bankCount
  · rw [State.hostSetBank_of_lt h]
    exact State.inv_selectBank hs h
  · rw [State.hostSetBank_of_ge h]
    exact State.inv_selectBank hs (by omega)

theorem hostOp_keeps_inv {op : HostOp} {s t : State} {r : Reply} (hs : s.Inv) (h : hostOp op s = .next (r, t)) :
    t.Inv := by
  cases op
  case reset =>
    cases h
    exact State.resetWith_inv hs.1
  case step => exact stepKeepsTheInvariant s t hs (step_of_hostOp_step h)
  case loadProgram bytes start =>
    obtain ⟨r', t', ht', hcases⟩ := hostOp_loadProgram s bytes start
    rw [ht'] at h
    cases h
    obtain rfl | rfl := hcases
    · exact hs
    · exact State.inv_memWriteList hs start bytes
  case setMemory a v =>
    cases h
    exact State.inv_memWrite hs a v
  case setBank k =>
    cases h
    exact State.inv_hostSetBank hs k
  case push16 v =>
    cases h
    exact State.inv_push16 hs _
  all_goals
    cases h
    exact hs

/-- Settles O60: the invariant by `hostOp_keeps_inv`, the parameters by `hostOp_keeps_cfg`. -/
theorem hostOperationsKeepTheInvariant : Obligations.HostOperationsKeepTheInvariant := fun _ _ _ _ hs h =>
  ⟨hostOp_keeps_inv hs h, hostOp_keeps_cfg h⟩

/-- Settles O5: by induction along the run, from O3 by O60. -/
theorem reachableStatesHaveTheInvariant : Obligations.ReachableStatesHaveTheInvariant := by
  intro c s hc hreach
  induction hreach with
  | built => exact ⟨State.resetWith_inv hc, rfl⟩
  | host op _ h ih =>
    obtain ⟨hinv, hcfg⟩ := ih
    obtain ⟨hinv', hcfg'⟩ := hostOperationsKeepTheInvariant op _ _ _ hinv h
    exact ⟨hinv', hcfg'.trans hcfg⟩

end Sys2Proof.Machine
end

section
/-! SUPPORT. The proofs of the statements about one step of the whole machine (10_state.md, 20_memory.md section 7,
40_step_and_control.md, 60_exceptions.md): which one instruction touches `halted`, `pc`, memory and `bank`. -/

namespace Sys2Proof.Machine

/-! ## Every instruction and every host operation answers (R180) -/

/-- Settles O28: `exec_does` for the instructions, `step_completes` for the host's step, `hostOp_keeps_halted` for the other
operations. -/
theorem everyInstructionAndHostOperationCompletes : Obligations.EveryInstructionAndHostOperationCompletes := by
  refine ⟨fun i s => ?_, fun op s => ?_⟩
  · obtain ⟨t, ht, -⟩ := exec_does i s
    exact ⟨t, ht⟩
  by_cases hreset : op = .reset
  · subst hreset
    exact ⟨_, _, hostOp_reset s⟩
  by_cases hstep : op = .step
  · subst hstep
    obtain ⟨t, ht⟩ := step_completes s
    exact ⟨_, t, hostOp_step ht⟩
  · obtain ⟨r, t, ht, -⟩ := hostOp_keeps_halted hreset hstep s
    exact ⟨r, t, ht⟩

/-! ## The one instruction for each of `halted`, `pc`, memory and `bank` -/

/-- Only HLT touches `halted`, only JMP `pc`, only STA memory, and only OUT 0xFF `bank`. -/
theorem exec_frame (i : Instr) (s : State) : ∃ t, exec i s = .next t ∧
    (i ≠ .hlt → t.halted = s.halted) ∧ ((∀ a, i ≠ .jmp a) → t.pc = s.pc) ∧
    ((∀ a, i ≠ .sta a) → t.mem = s.mem) ∧ (i ≠ .outPort 0xFF → t.bank = s.bank) := by
  cases i
  case hlt => exact ⟨_, rfl, fun h => absurd rfl h, fun _ => rfl, fun _ => rfl, fun _ => rfl⟩
  case jmp a => exact ⟨_, rfl, fun _ => rfl, fun h => absurd rfl (h a), fun _ => rfl, fun _ => rfl⟩
  case sta a => exact ⟨_, rfl, fun _ => rfl, fun _ => rfl, fun h => absurd rfl (h a), fun _ => rfl⟩
  case outPort p =>
    by_cases hp : p = Config.bankPort
    · exact ⟨_, if_pos hp, fun _ => rfl, fun _ => rfl, fun _ => rfl, fun h => absurd (congrArg Instr.outPort hp) h⟩
    · exact ⟨_, if_neg hp, fun _ => rfl, fun _ => rfl, fun _ => rfl, fun _ => rfl⟩
  case inPort p =>
    by_cases hp : p = Config.bankPort
    · exact ⟨_, if_pos hp, fun _ => rfl, fun _ => rfl, fun _ => rfl, fun _ => rfl⟩
    · exact ⟨_, if_neg hp, fun _ => rfl, fun _ => rfl, fun _ => rfl, fun _ => rfl⟩
  all_goals exact ⟨_, rfl, fun _ => rfl, fun _ => rfl, fun _ => rfl, fun _ => rfl⟩

/-! ## The fetched instruction, told from its bytes -/

theorem opcode_of_fetchInstr {s : State} {i : Instr} {op : Byte} {operands : List Byte} (h : s.fetchInstr.1 = i)
    (henc : encode i = op :: operands) : s.opcode = op := by
  obtain ⟨operands', hfetch⟩ := encode_fetchInstr s
  rw [h, henc] at hfetch
  exact (List.cons.inj hfetch).1.symm

theorem operand8_of_fetchInstr_outPort {s : State} {p : Byte} (h : s.fetchInstr.1 = .outPort p) : s.operand8 = p := by
  obtain ⟨-, hbytes⟩ := fetchInstr_bytes s
  rw [h, encode_outPort] at hbytes
  obtain ⟨henc, -⟩ | ⟨henc, -⟩ | ⟨henc, -⟩ := hbytes
  · exact absurd henc (by simp)
  · exact (List.cons.inj (List.cons.inj henc).2).1.symm
  · exact absurd henc (by simp)

theorem length_encode_fetchInstr (s : State) : (encode s.fetchInstr.1).length = opcodeLength s.opcode := by
  obtain ⟨tail, h⟩ := decode_bytes_at_pc s
  have hlen := length_of_decode h
  obtain ⟨-, hbytes⟩ := encodeOfDecodeIsTheBytes _ _ _ h
  have hsplit := congrArg List.length hbytes
  rw [List.length_append, List.length_cons, hlen] at hsplit
  exact Nat.add_right_cancel (hsplit.trans (Nat.add_comm _ _))

/-! ## What a step leaves alone, told from the opcode byte -/

/-- `exec_frame` for a step. -/
theorem step_frame {s t : State} (hs : s.halted = false) (h : step s = .next t) :
    (s.opcode ≠ 0x76 → t.halted = false) ∧
    (s.opcode ≠ 0xC3 → t.pc = s.pc + BitVec.ofNat 16 (opcodeLength s.opcode)) ∧
    (s.opcode ≠ 0x32 → t.mem = s.mem) ∧
    (¬ (s.opcode = 0xD3 ∧ s.operand8 = 0xFF) → t.bank = s.bank) := by
  obtain ⟨u, hu, hhalted, hpc, hmem, hbank⟩ := exec_frame s.fetchInstr.1 s.fetchInstr.2
  rw [step_running hs, hu] at h
  cases h
  rw [fetchInstr_setPC_length, length_encode_fetchInstr] at hhalted hpc hmem hbank
  refine ⟨fun hop => (hhalted fun hi => hop (opcode_of_fetchInstr hi rfl)).trans hs,
    fun hop => hpc fun a hi => hop (opcode_of_fetchInstr hi rfl),
    fun hop => hmem fun a hi => hop (opcode_of_fetchInstr hi rfl),
    fun hop => hbank fun hi => hop ⟨opcode_of_fetchInstr hi rfl, operand8_of_fetchInstr_outPort hi⟩⟩

theorem step_jmp {s : State} (hs : s.halted = false) (hop : s.opcode = 0xC3) :
    step s = .next ((s.setPC (s.pc + 3)).setPC s.operand16) :=
  (step_f3 (form := .jmp) hs (congrArg dispatchTable hop)).trans (exec_jmp _ _)

theorem step_sta {s : State} (hs : s.halted = false) (hop : s.opcode = 0x32) :
    step s = .next ((s.setPC (s.pc + 3)).memWrite s.operand16 (s.getReg .a)) :=
  (step_f3 (form := .sta) hs (congrArg dispatchTable hop)).trans (exec_sta _ _)

theorem step_out_bankPort {s : State} (hs : s.halted = false) (hop : s.opcode = 0xD3) (hport : s.operand8 = 0xFF) :
    step s = .next ((s.setPC (s.pc + 2)).writeBankPort (s.getReg .a)) := by
  have hexec := step_f2 (form := .outPort) hs (congrArg dispatchTable hop)
  rw [show s.memRead (s.pc + 1) = 0xFF from hport] at hexec
  exact hexec.trans (exec_outPort_bankPort _)

/-! ## Running and Halted (R193) -/

/-- Settles O30: `step_hlt` for the HLT byte and `step_frame` for every other; the host operations by `hostOp_keeps_halted`. -/
theorem runningAndHaltedTransitions : Obligations.RunningAndHaltedTransitions := by
  refine ⟨fun s t hs h => ⟨fun ht => ?_, fun hop => ?_⟩, fun s => step_hlt, fun s => step_halted,
    fun op s t r hreset hstep h => ?_, fun s => ⟨_, hostOp_reset s, rfl, rfl⟩⟩
  · obtain ⟨hrunning, -⟩ := step_frame hs h
    by_contra hop
    rw [hrunning hop] at ht
    cases ht
  · rw [step_hlt hs hop] at h
    cases h
    rfl
  · obtain ⟨r', t', ht', hkeep⟩ := hostOp_keeps_halted hreset hstep s
    rw [ht'] at h
    cases h
    exact hkeep

/-! ## `pc` after a step (R26) -/

/-- Settles O6: JMP sets `pc` (`step_jmp`); every other opcode leaves it past its own bytes (`step_frame`), whose number is
R86's lists (`opcodeLength_eq`). -/
theorem stepLeavesPcPastTheInstruction : Obligations.StepLeavesPcPastTheInstruction := by
  intro s t h
  refine ⟨fun hs => ?_, fun hs => ?_⟩
  · rw [step_halted hs] at h
    cases h
    rfl
  by_cases hop : s.opcode = 0xC3
  · rw [step_jmp hs hop] at h
    cases h
    rw [if_pos hop]
    rfl
  · obtain ⟨-, hpc, -⟩ := step_frame hs h
    have hthree : s.opcode ∈ ([0x32, 0x3A, 0xC3] : List Byte) ↔ s.opcode ∈ ([0x32, 0x3A] : List Byte) := by
      simp [show s.opcode ≠ 195#8 from hop]
    rw [hpc hop, opcodeLength_eq, if_neg hop, apply_ite (BitVec.ofNat 16), apply_ite (BitVec.ofNat 16)]
    simp only [hthree, apply_ite (s.pc + ·)]
    rfl

/-! ## The control state (R33, R34, R35, R38) -/

/-- Settles O10: `bank_en`, `inte` and the parameters stay under every `Change`; `bank` stays under every step
(`step_frame`) but OUT 0xFF (`step_out_bankPort`). -/
theorem stepsWriteNoControlStateButTheBank : Obligations.StepsWriteNoControlStateButTheBank := by
  intro s t h
  obtain ⟨hs, rfl⟩ | ⟨hs, a, -, hc⟩ := step_cases h
  · exact ⟨rfl, rfl, rfl, by rw [if_neg (by simp [hs])]⟩
  refine ⟨hc.bankEn, hc.inte, hc.cfg, ?_⟩
  by_cases hout : s.opcode = 0xD3 ∧ s.operand8 = 0xFF
  · obtain ⟨hop, hport⟩ := hout
    rw [step_out_bankPort hs hop hport] at h
    cases h
    rw [if_pos ⟨hs, hop, hport⟩]
    rfl
  · obtain ⟨-, -, -, hbank⟩ := step_frame hs h
    rw [if_neg (fun hall => hout hall.2), hbank hout]

/-! ## Memory (R66, R67) -/

/-- Settles O16: STA's step is one write through the controller (`step_sta`); every other step keeps memory
(`step_frame`). -/
theorem onlyStaWritesMemory : Obligations.OnlyStaWritesMemory := by
  intro s t hm hs h c hc
  by_cases hop : s.opcode = 0x32
  · rw [step_sta hs hop] at h
    cases h
    exact (State.readCell_memWrite (s := s.setPC (s.pc + 3)) hm _ _ c).trans (if_neg (hc hop))
  · obtain ⟨-, -, hmem, -⟩ := step_frame hs h
    rw [hmem hop]

/-- Settles O17: STA's step is one write through the controller (`step_sta`), and the next fetch reads through the same
controller at `pc + 3`. -/
theorem storedByteIsFetchedNext : Obligations.StoredByteIsFetchedNext := by
  intro s hm hs hop
  have hread : ((s.setPC (s.pc + 3)).memWrite s.operand16 (s.getReg .a)).memRead s.operand16 = s.getReg .a :=
    (State.memRead_memWrite (s := s.setPC (s.pc + 3)) hm _ _ _).trans (if_pos rfl)
  refine ⟨_, step_sta hs hop, rfl, hread, fun hnext => ?_⟩
  rw [hnext] at hread ⊢
  exact hread

/-! ## The step and the decoder (R100) -/

/-- Settles O27: the decoder's answer is the fetched instruction (`decode_bytes_at_pc`), and fetching moves `pc` past its
bytes (`fetchInstr_setPC_length`). -/
theorem stepRunsTheDecodedInstruction : Obligations.StepRunsTheDecodedInstruction := by
  intro s i rest hs h
  obtain ⟨tail, hfetch⟩ := decode_bytes_at_pc s
  rw [h] at hfetch
  cases hfetch
  rw [step_running hs, fetchInstr_setPC_length]

/-! ## Cleared memory (R201, R210) -/

/-- Settles O2: where every address reads 0x00 a step is a NOP and the same holds after it, since reading does not look at
`pc`; so by induction on the number of steps. -/
theorem clearedMemoryRunsNopForEver : Obligations.ClearedMemoryRunsNopForEver := by
  refine ⟨fun c => step_nop rfl (State.resetWith_readCell c _), fun n => ?_⟩
  induction n with
  | zero =>
    intro s _ _
    exact congrArg (fun pc => Host.Outcome.next (s.setPC pc)) (BitVec.add_zero s.pc).symm
  | succ n ih =>
    intro s hs hclear
    have hstep : Sys2Proof.core.step s = .next (s.setPC (s.pc + 1)) := step_nop hs (hclear s.pc)
    have hrest := ih (s.setPC (s.pc + 1)) hs hclear
    rw [State.setPC_pc, add_one_add_ofNat] at hrest
    simp only [Host.Core.run, hstep]
    exact hrest

end Sys2Proof.Machine
end

section
/-! SUPPORT. The proofs of the statements about what one run cannot tell from another: a hidden bank (20_memory.md R55,
10_state.md R40) and the flags other than `CY` (R29). -/

namespace Sys2Proof.Machine

/-! ## A write under one bank, seen under another (R55) -/

/-- While switching is enabled, a window address under one bank names a cell that no address names under another. -/
theorem State.route_selectBank_ne {s : State} {a b : Addr} {J K : Nat} (he : s.bankEn = true)
    (ha : inWindow s.cfg a = true) (hJK : J ≠ K) : (s.selectBank K).route a ≠ (s.selectBank J).route b := by
  rw [State.route_enabled (s := s.selectBank K) ha he]
  cases hb : inWindow s.cfg b with
  | true =>
    rw [State.route_enabled (s := s.selectBank J) hb he]
    exact fun h => hJK (StoreCell.bank.inj h).1.symm
  | false =>
    rw [State.route_common (s := s.selectBank J) hb]
    exact StoreCell.noConfusion

theorem State.memRead_memWrite_selectBank {s : State} (hm : s.mem.wf) (a b : Addr) (v : Byte) {J K : Nat}
    (hne : (s.selectBank J).route b ≠ (s.selectBank K).route a) :
    (((s.selectBank K).memWrite a v).selectBank J).memRead b = (s.selectBank J).memRead b :=
  (State.readCell_memWrite (s := s.selectBank K) hm a v _).trans (if_neg hne)

theorem State.writesUnderBanks_cons (s : State) (w : Nat × Addr × Byte) (ws : List (Nat × Addr × Byte)) :
    s.writesUnderBanks (w :: ws) = ((s.selectBank w.1).memWrite w.2.1 w.2.2).writesUnderBanks ws := rfl

/-- What a window address reads as under one bank survives any writes under others. -/
theorem State.memRead_writesUnderBanks {s : State} (hm : s.mem.wf) (he : s.bankEn = true) {a : Addr}
    (ha : inWindow s.cfg a = true) {K : Nat} (ws : List (Nat × Addr × Byte)) (hws : ∀ w ∈ ws, w.1 ≠ K) :
    ((s.writesUnderBanks ws).selectBank K).memRead a = (s.selectBank K).memRead a := by
  induction ws generalizing s with
  | nil => rfl
  | cons w ws ih =>
    obtain ⟨hw, hws⟩ := List.forall_mem_cons.mp hws
    have hm' := State.wf_memWrite (s := s.selectBank w.1) hm w.2.1 w.2.2
    rw [State.writesUnderBanks_cons, ih hm' he ha hws]
    exact State.memRead_memWrite_selectBank hm _ _ _ (State.route_selectBank_ne he ha hw)

/-- Settles O13: under different banks a window address names different cells (`State.route_selectBank_ne`); outside the
window an address names the same cell under every bank. -/
theorem banksAreIsolated : Obligations.BanksAreIsolated := by
  intro s K a v hm
  have hstored := (State.memRead_memWrite (s := s.selectBank K) hm a a v).trans (if_pos rfl)
  refine ⟨fun he ha => ⟨fun J hJ b => ?_, fun ws hws => ?_⟩, fun ha J e => ?_⟩
  · exact State.memRead_memWrite_selectBank hm a b v (State.route_selectBank_ne he ha hJ).symm
  · have hm' := State.wf_memWrite (s := s.selectBank K) hm a v
    exact (State.memRead_writesUnderBanks hm' he ha ws hws).trans hstored
  · have hroute : (((s.memWrite a v).selectBank J).setBankEn e).route a = s.route a := by
      rw [State.route_common ha]
      exact State.route_common ha
    rw [State.memRead, hroute]
    exact (State.readCell_memWrite hm a v _).trans (if_pos rfl)

/-! ## A step under a hidden bank (R40, R55) -/

/-- No address names a cell of a bank that is not the visible one. -/
theorem State.route_ne_hidden {s : State} {k : Nat} (hk : k ≠ s.visibleBank) (a : Addr) (o : Addr) :
    s.route a ≠ .bank k o := by
  cases ha : inWindow s.cfg a with
  | true =>
    rw [State.route_window ha]
    exact fun h => hk (StoreCell.bank.inj h).1.symm
  | false =>
    rw [State.route_common ha]
    exact StoreCell.noConfusion

/-- The second state is the first with a memory of its own. -/
theorem State.agreeOffBank_iff {k : Nat} {s t : State} : s.agreeOffBank k t ↔
    ∃ m : Memory, t = { s with mem := m } ∧ ∀ c : StoreCell, (∀ o, c ≠ .bank k o) → m.readCell c = s.mem.readCell c := by
  refine ⟨fun ⟨ht, hcells⟩ => ⟨t.mem, ht, hcells⟩, ?_⟩
  rintro ⟨m, rfl, hcells⟩
  exact ⟨rfl, hcells⟩

section
variable {k : Nat} {s t : State}

theorem State.memRead_of_agreeOffBank (h : s.agreeOffBank k t) (hk : k ≠ s.visibleBank) (a : Addr) :
    t.memRead a = s.memRead a := by
  obtain ⟨m, rfl, hcells⟩ := State.agreeOffBank_iff.mp h
  exact hcells _ (State.route_ne_hidden hk a)

theorem State.pc_of_agreeOffBank (h : s.agreeOffBank k t) : t.pc = s.pc := by rw [h.1]

theorem State.halted_of_agreeOffBank (h : s.agreeOffBank k t) : t.halted = s.halted := by rw [h.1]

theorem State.getReg_of_agreeOffBank (h : s.agreeOffBank k t) (r : Reg) : t.getReg r = s.getReg r := by
  rw [h.1]
  rfl

theorem State.agreeOffBank_setPC (h : s.agreeOffBank k t) (a : Addr) : (s.setPC a).agreeOffBank k (t.setPC a) := by
  obtain ⟨m, rfl, hcells⟩ := State.agreeOffBank_iff.mp h
  exact ⟨rfl, hcells⟩

theorem State.agreeOffBank_setReg (h : s.agreeOffBank k t) (r : Reg) (v : Byte) :
    (s.setReg r v).agreeOffBank k (t.setReg r v) := by
  obtain ⟨m, rfl, hcells⟩ := State.agreeOffBank_iff.mp h
  exact ⟨rfl, hcells⟩

/-- The two states name the same cell by the address, so the same store keeps them in agreement. -/
theorem State.agreeOffBank_memWrite (hs : s.mem.wf) (ht : t.mem.wf) (h : s.agreeOffBank k t) (a : Addr) (v : Byte) :
    (s.memWrite a v).agreeOffBank k (t.memWrite a v) := by
  obtain ⟨m, rfl, hcells⟩ := State.agreeOffBank_iff.mp h
  refine ⟨rfl, fun c hc => ?_⟩
  rw [State.readCell_memWrite hs, State.readCell_memWrite ht, hcells c hc]
  rfl

/-- Both states fetch the same instruction, since every byte of it reads the same. -/
theorem fetchInstr_of_agreeOffBank (h : s.agreeOffBank k t) (hk : k ≠ s.visibleBank) :
    t.fetchInstr.1 = s.fetchInstr.1 ∧ s.fetchInstr.2.agreeOffBank k t.fetchInstr.2 := by
  have hread := State.memRead_of_agreeOffBank h hk
  have hpc : t.pc = s.pc := State.pc_of_agreeOffBank h
  cases hrow : dispatchTable (s.memRead s.pc) with
  | f1 i =>
    have hrow' : dispatchTable (t.memRead t.pc) = .f1 i := by rw [hread, hpc, hrow]
    rw [fetchInstr_f1 hrow, fetchInstr_f1 hrow', hpc]
    exact ⟨rfl, State.agreeOffBank_setPC h _⟩
  | f2 form =>
    have hrow' : dispatchTable (t.memRead t.pc) = .f2 form := by rw [hread, hpc, hrow]
    rw [fetchInstr_f2 hrow, fetchInstr_f2 hrow', hread, hpc]
    exact ⟨rfl, State.agreeOffBank_setPC h _⟩
  | f3 form =>
    have hrow' : dispatchTable (t.memRead t.pc) = .f3 form := by rw [hread, hpc, hrow]
    rw [fetchInstr_f3 hrow, fetchInstr_f3 hrow', hread, hread, hpc]
    exact ⟨rfl, State.agreeOffBank_setPC h _⟩

/-- An instruction keeps the agreement: LDA reads and STA writes through the controller, and no other instruction looks at
memory. -/
theorem exec_of_agreeOffBank (hs : s.mem.wf) (ht : t.mem.wf) (h : s.agreeOffBank k t) (hk : k ≠ s.visibleBank)
    (i : Instr) : ∃ s' t', exec i s = .next s' ∧ exec i t = .next t' ∧ s'.agreeOffBank k t' := by
  obtain ⟨m, heq, hcells⟩ := State.agreeOffBank_iff.mp h
  cases i
  case lda a =>
    refine ⟨_, _, exec_lda a s, exec_lda a t, ?_⟩
    rw [State.memRead_of_agreeOffBank h hk]
    exact State.agreeOffBank_setReg h .a _
  case sta a =>
    have hreg : t.getReg .a = s.getReg .a := State.getReg_of_agreeOffBank h .a
    refine ⟨_, _, exec_sta a s, exec_sta a t, ?_⟩
    rw [hreg]
    exact State.agreeOffBank_memWrite hs ht h a _
  case outPort p =>
    subst heq
    by_cases hp : p = Config.bankPort
    · exact ⟨_, _, if_pos hp, if_pos hp, rfl, hcells⟩
    · exact ⟨_, _, if_neg hp, if_neg hp, rfl, hcells⟩
  case inPort p =>
    subst heq
    by_cases hp : p = Config.bankPort
    · exact ⟨_, _, if_pos hp, if_pos hp, rfl, hcells⟩
    · exact ⟨_, _, if_neg hp, if_neg hp, rfl, hcells⟩
  all_goals
    subst heq
    exact ⟨_, _, rfl, rfl, rfl, hcells⟩

end

/-- Settles O14: a Halted step is idle; a Running one fetches the same instruction in both states
(`fetchInstr_of_agreeOffBank`), and executing it keeps the agreement (`exec_of_agreeOffBank`). -/
theorem hiddenBankNeverInfluencesAStep : Obligations.HiddenBankNeverInfluencesAStep := by
  intro k s t s' hs ht h hk hstep
  have hhalted : t.halted = s.halted := State.halted_of_agreeOffBank h
  cases hh : s.halted with
  | true =>
    rw [step_halted hh] at hstep
    cases hstep
    exact ⟨t, step_halted (hhalted.trans hh), h⟩
  | false =>
    obtain ⟨hinstr, hagree⟩ := fetchInstr_of_agreeOffBank h hk
    obtain ⟨a, ha⟩ := fetchInstr_state s
    obtain ⟨b, hb⟩ := fetchInstr_state t
    have hs' : s.fetchInstr.2.mem.wf := by rw [ha]; exact hs
    have ht' : t.fetchInstr.2.mem.wf := by rw [hb]; exact ht
    have hk' : k ≠ s.fetchInstr.2.visibleBank := by rw [ha]; exact hk
    obtain ⟨u, u', hu, hu', hagree'⟩ := exec_of_agreeOffBank hs' ht' hagree hk' s.fetchInstr.1
    rw [step_running hh, hu] at hstep
    cases hstep
    exact ⟨u', by rw [step_running (hhalted.trans hh), hinstr, hu'], hagree'⟩

/-! ## The flags other than `CY` (R29) -/

/-- A step of the flag unit that keeps `CY` and writes the other four depends on the old `CY` only. -/
theorem incCore_congr_cy (v : Byte) {f g : Flags} (h : f.cy = g.cy) : incCore v f = incCore v g := by
  obtain ⟨_, _, _, _, _⟩ := f
  cases h
  rfl

theorem decCore_congr_cy (v : Byte) {f g : Flags} (h : f.cy = g.cy) : decCore v f = decCore v g := by
  obtain ⟨_, _, _, _, _⟩ := f
  cases h
  rfl

section
variable {s : State} {f : Flags}

theorem adcReg_setFlags (r : Reg) (h : f.cy = s.flags.cy) : adcReg r (s.setFlags f) = adcReg r s := by
  rw [adcReg, State.setFlags_flags, h]
  rfl

theorem sbbReg_setFlags (r : Reg) (h : f.cy = s.flags.cy) : sbbReg r (s.setFlags f) = sbbReg r s := by
  rw [sbbReg, State.setFlags_flags, h]
  rfl

theorem incReg_setFlags (r : Reg) (h : f.cy = s.flags.cy) : incReg r (s.setFlags f) = incReg r s := by
  rw [incReg, State.setFlags_flags, incCore_congr_cy _ h]
  rfl

theorem decReg_setFlags (r : Reg) (h : f.cy = s.flags.cy) : decReg r (s.setFlags f) = decReg r s := by
  rw [decReg, State.setFlags_flags, decCore_congr_cy _ h]
  rfl

end

/-- Settles O9: the arithmetic families write all five flags and read at most `CY`; every other instruction carries the
flags over. -/
theorem noInstructionReadsFlagsOtherThanCarry : Obligations.NoInstructionReadsFlagsOtherThanCarry := by
  intro i
  cases i
  case addB | addC | addD | addE | addH | addL | addA | subB | subC | subD | subE | subH | subL | subA =>
    exact .inl fun s f _ => ⟨_, rfl, rfl⟩
  case adcB | adcC | adcD | adcE | adcH | adcL | adcA =>
    exact .inl fun s f h => ⟨_, rfl, adcReg_setFlags _ h⟩
  case sbbB | sbbC | sbbD | sbbE | sbbH | sbbL | sbbA =>
    exact .inl fun s f h => ⟨_, rfl, sbbReg_setFlags _ h⟩
  case inrB | inrC | inrD | inrE | inrH | inrL | inrA =>
    exact .inl fun s f h => ⟨_, rfl, incReg_setFlags _ h⟩
  case dcrB | dcrC | dcrD | dcrE | dcrH | dcrL | dcrA =>
    exact .inl fun s f h => ⟨_, rfl, decReg_setFlags _ h⟩
  case outPort p =>
    refine .inr fun s f => ?_
    by_cases hp : p = Config.bankPort
    · exact ⟨_, if_pos hp, rfl, if_pos hp⟩
    · exact ⟨_, if_neg hp, rfl, if_neg hp⟩
  case inPort p =>
    refine .inr fun s f => ?_
    by_cases hp : p = Config.bankPort
    · exact ⟨_, if_pos hp, rfl, if_pos hp⟩
    · exact ⟨_, if_neg hp, rfl, if_neg hp⟩
  all_goals exact .inr fun s f => ⟨_, rfl, rfl, rfl⟩

end Sys2Proof.Machine
end

section
/-! SUPPORT. The proofs of the statements about exact arithmetic (42_arithmetic.md R127) and about the ports (45_io.md):
the round trip through port 0xFF (R144) and the other ports (R142, R143). -/

namespace Sys2Proof.Machine

/-! ## Carry and borrow (R127) -/

theorem toNat_of_iff {b : Bool} {p : Prop} [Decidable p] (h : b = true ↔ p) : b.toNat = if p then 1 else 0 := by
  by_cases hp : p
  · rw [if_pos hp, h.mpr hp, Bool.toNat_true]
  · rw [if_neg hp, Bool.eq_false_iff.mpr (mt h.mp hp), Bool.toNat_false]

/-- The carry is the ninth bit of the sum. -/
theorem addCore_exact (a b : Byte) (c : Bool) :
    256 * (addCore a b c).2.cy.toNat + (addCore a b c).1.toNat = a.toNat + b.toNat + c.toNat := by
  have hcy := toNat_of_iff (addCore_cy_iff a b c)
  have hc := c.toNat_le
  rw [addCore_result, hcy]
  split <;> omega

/-- The borrow is what the difference lacks. -/
theorem subCore_exact (a b : Byte) (c : Bool) :
    ((subCore a b c).1.toNat : Int) - 256 * (subCore a b c).2.cy.toNat = (a.toNat : Int) - b.toNat - c.toNat := by
  have hcy := toNat_of_iff (subCore_cy_iff a b c)
  have hc := c.toNat_le
  rw [subCore_result, hcy]
  split <;> omega

/-- Two bytes added low byte first, the carry of the first into the second. -/
theorem joinBytes_addCore (x y : Addr) :
    joinBytes (addCore (hiByte x) (hiByte y) (addCore (loByte x) (loByte y) false).2.cy).1
      (addCore (loByte x) (loByte y) false).1 = x + y := by
  have hlow := addCore_exact (loByte x) (loByte y) false
  have hhigh := addCore_exact (hiByte x) (hiByte y) (addCore (loByte x) (loByte y) false).2.cy
  apply BitVec.eq_of_toNat_eq
  rw [joinBytes_toNat, BitVec.toNat_add]
  simp only [loByte_toNat, hiByte_toNat, Bool.toNat_false] at hlow hhigh
  omega

/-- Two bytes subtracted low byte first, the borrow of the first into the second. -/
theorem joinBytes_subCore (x y : Addr) :
    joinBytes (subCore (hiByte x) (hiByte y) (subCore (loByte x) (loByte y) false).2.cy).1
      (subCore (loByte x) (loByte y) false).1 = x - y := by
  have hlow := subCore_exact (loByte x) (loByte y) false
  have hhigh := subCore_exact (hiByte x) (hiByte y) (subCore (loByte x) (loByte y) false).2.cy
  apply BitVec.eq_of_toNat_eq
  rw [joinBytes_toNat, BitVec.toNat_sub]
  simp only [loByte_toNat, hiByte_toNat, Bool.toNat_false] at hlow hhigh
  omega

/-- Settles O39: the two identities on bytes, and each twice for two bytes. -/
theorem carryAndBorrowMakeTheResultExact : Obligations.CarryAndBorrowMakeTheResultExact :=
  ⟨fun a b c => ⟨addCore_exact a b c, subCore_exact a b c⟩, fun x y => ⟨joinBytes_addCore x y, joinBytes_subCore x y⟩⟩

/-! ## The round trip through port 0xFF (R144) -/

/-- Settles O51: OUT 0xFF leaves a legal index whatever `A` is, so IN 0xFF reads it back (`State.readBankPort_toNat`), and
the register it goes to is no part of the routing. -/
theorem bankPortRoundTrip : Obligations.BankPortRoundTrip := by
  intro s hcfg
  have ⟨⟨hcount, _⟩, _⟩ := hcfg
  have hindex : (s.writeBankPort (s.getReg .a)).readBankPort.toNat = (s.getReg .a).toNat % s.cfg.bankCount :=
    State.readBankPort_toNat (s := s.writeBankPort (s.getReg .a)) hcfg (Nat.mod_lt _ hcount)
  refine ⟨_, _, exec_outPort_bankPort s, exec_inPort_bankPort _, ?_, fun hlt => ⟨?_, fun a he ha => ?_⟩⟩
  · rw [State.getReg_setReg_self, hindex]
  · rw [State.getReg_setReg_self]
    exact BitVec.eq_of_toNat_eq (hindex.trans (Nat.mod_eq_of_lt hlt))
  · have hread := State.memRead_writeBankPort (s.getReg .a) he ha
    rw [Nat.mod_eq_of_lt hlt] at hread
    exact hread

/-! ## The other ports (R142, R143) -/

theorem exec_outPort_other {p : Byte} (hp : p ≠ 0xFF) (s : State) :
    exec (.outPort p) s = .next (s.ioWrite p (s.getReg .a)) := if_neg hp

theorem exec_inPort_other {p : Byte} (hp : p ≠ 0xFF) (s : State) :
    exec (.inPort p) s = .next ((s.ioRead p).2.setReg .a (s.ioRead p).1) := if_neg hp

theorem State.keepsControl_ioWrite (s : State) (p v : Byte) : s.keepsControl (s.ioWrite p v) :=
  ⟨rfl, rfl, rfl, rfl, rfl⟩

theorem State.keepsMemory_ioWrite (s : State) (p v : Byte) : s.keepsMemory (s.ioWrite p v) :=
  ⟨fun _ => rfl, fun _ => rfl⟩

/-- Settles O48: OUT to another port is one entry in the record (`exec_outPort_other`). -/
theorem outToAnotherPortOnlyPresentsThePair : Obligations.OutToAnotherPortOnlyPresentsThePair := fun p s hp =>
  ⟨encode_outPort p, _, exec_outPort_other hp s, s.ioWrite_ioWrites p _, s.ioWrite_ioDraws p _, s.ioWrite_regs p _,
    s.ioWrite_flags p _, s.ioWrite_pc p _, s.keepsControl_ioWrite p _, s.ioWrite_bank p _, s.keepsMemory_ioWrite p _⟩

/-- Settles O50: IN from another port is one reading of the environment and one register write (`exec_inPort_other`). -/
theorem inFromAnotherPortReadsAFreeByte : Obligations.InFromAnotherPortReadsAFreeByte := by
  intro p s hp
  obtain ⟨hcontrol, hbank, hmem, -⟩ := (s.ioRead p).2.keepsRest_setReg .a (s.ioRead p).1
  exact ⟨encode_inPort p, _, exec_inPort_other hp s, State.getReg_setReg_self _ .a _, rfl, rfl,
    (s.ioRead p).2.keepsRegsBut_setReg .a _, rfl, rfl, hcontrol, hbank, hmem⟩

end Sys2Proof.Machine
end
